-- ==== Sys2Proof/Word.lean ====
section
/-! DEFINITION. The word types of the engine (R7): the widths the spec gives to registers, bytes, buffer
addresses, command words and step indices. Plain bit vectors, so that core BitVec lemmas apply. -/

namespace Sys2Proof

/-- A 32-bit word: an accumulator, a working register, a message word, an additive constant. -/
abbrev Word := BitVec 32
/-- A byte of the message or of the block buffer. -/
abbrev Byte := BitVec 8
/-- The 64-bit length counter and the bit length of the padding. -/
abbrev Count := BitVec 64
/-- An address of the block buffer, 0 to 63 (R40). -/
abbrev BufAddr := BitVec 6
/-- A command word `cmd[9:0]` (R60). -/
abbrev CmdWord := BitVec 10
/-- A step index `T[5:0]` (R66). -/
abbrev StepIndex := BitVec 6

end Sys2Proof
end

