-- ==== Sys2Proof/Config.lean ====
section
/-! DEFINITION. The free values: what the spec leaves without a value while the machine goes on. Each is a
constant with no body, applied to the number of the draw (`State.draws`, which the step reads and
advances) and, where one draw fills several places, to the place. Nothing constrains them. -/

namespace Sys2Proof.Config

/-- DESIGN CHOICE (log entry 4). The word that draw number `draw` leaves in place `slot`: the working
registers after a compression (R36, R106: dead, no architectural value), and `H[0..3]` and the working
registers after a hardware reset (R155: unspecified). -/
opaque freeWord (draw slot : Nat) : Word

/-- DESIGN CHOICE (log entry 4). `LEN` after a hardware reset (R155: unspecified). -/
opaque freeLen (draw : Nat) : Count

/-- DESIGN CHOICE (log entry 4). The byte of `BUF` at an address after a hardware reset (R155: unspecified). -/
opaque freeByte (draw addr : Nat) : Byte

/-- DESIGN CHOICE (log entry 4). The step index `T` after a compression (R31: no meaning) or a hardware
reset (R155: no value). -/
opaque freeIndex (draw : Nat) : StepIndex

end Sys2Proof.Config
end

