-- ==== Sys2Proof/Syntax.lean ====
section
/-! DEFINITION. The instructions: one constructor per row of spec/opcode_table.json. Four host commands
(format CMD, R60, R61) and the 64 step operations of the compression function (format STEP, R66, R67). -/

namespace Sys2Proof

/-- One instruction of the engine. The host issues the first four; the sequencer of the compression
function runs the 64 steps, each a row of R104 (the host cannot issue a step, R66). -/
inductive Instr where
  /-- NOP (R76). -/
  | nop
  /-- INIT, the source's `initialize` (R77, R86). -/
  | init
  /-- FEED, one byte of the source's `feed` (R80): `v` is the message byte `cmd[7:0]` (R62). -/
  | feed (v : Byte)
  /-- FINAL, the source's `finalize` (R83). -/
  | final
  -- FF steps, round 0 (R107)
  | ff00 | ff01 | ff02 | ff03 | ff04 | ff05 | ff06 | ff07
  | ff08 | ff09 | ff10 | ff11 | ff12 | ff13 | ff14 | ff15
  -- GG steps, round 1 (R108)
  | gg16 | gg17 | gg18 | gg19 | gg20 | gg21 | gg22 | gg23
  | gg24 | gg25 | gg26 | gg27 | gg28 | gg29 | gg30 | gg31
  -- HH steps, round 2 (R109)
  | hh32 | hh33 | hh34 | hh35 | hh36 | hh37 | hh38 | hh39
  | hh40 | hh41 | hh42 | hh43 | hh44 | hh45 | hh46 | hh47
  -- II steps, round 3 (R110)
  | ii48 | ii49 | ii50 | ii51 | ii52 | ii53 | ii54 | ii55
  | ii56 | ii57 | ii58 | ii59 | ii60 | ii61 | ii62 | ii63
  deriving DecidableEq, Repr

/-- What a decoder is given: a word of one of the two formats, which are different spaces (R67). -/
inductive Code where
  /-- A command word on the port `cmd[9:0]` (R60). -/
  | cmd (w : CmdWord)
  /-- A step index of the compression function (R66). -/
  | step (t : StepIndex)
  deriving DecidableEq, Repr

end Sys2Proof
end

