-- ==== Sys2Proof/WellFormed.lean ====
section
/-! DEFINITION. Well-formedness. An instruction term carries at most one operand, FEED's byte, whose type is
exactly the operand field, so no term of Instr is ill formed (R62: all 256 values are legal). What can be ill
formed is a WORD: a command word with operand bits where its opcode has none (R63). -/

namespace Sys2Proof

/-- A legal command word (R61, R63): the opcode is FEED, or the operand field is 0. -/
def CmdWord.legal (w : CmdWord) : Bool :=
  w.extractLsb' 8 2 == 0b10#2 || w.extractLsb' 0 8 == 0#8

/-- A well-formed word: a legal command word, or any step index (R66: all 64 are assigned). -/
def Code.wellFormed : Code → Bool
  | .cmd w => CmdWord.legal w
  | .step _ => true

/-- A well-formed instruction: its operand, if it has one, fits its field `cmd[7:0]` (R62). The type of FEED's
operand says so already; the check is written out so that a wider operand type could not slip past it. -/
def Instr.wellFormed : Instr → Bool
  | .feed v => v.toNat < 256
  | _ => true

end Sys2Proof
end

