-- ==== Sys2Proof/Decode.lean ====
section
/-! DEFINITION. The decoder (R60 to R67), total on every word of both formats and rejecting by name, and
after it the encoder, written from the same tables (R61, R67). -/

namespace Sys2Proof

/-- Why a word is no instruction. -/
inductive DecodeError where
  /-- A reserved encoding (R63): the opcode is not FEED and the operand field is not 0. -/
  | reserved (w : CmdWord)
  deriving DecidableEq, Repr

/-- The opcode field `op = cmd[9:8]` (R60). -/
def cmdOp (w : CmdWord) : BitVec 2 := w.extractLsb' 8 2

/-- The operand field `data = cmd[7:0]` (R60, R62). -/
def cmdData (w : CmdWord) : Byte := w.extractLsb' 0 8

/-- The decoder of command words, in the order of R64. -/
def decodeCmd (w : CmdWord) : Except DecodeError Instr :=
  if cmdOp w = 0b10#2 then .ok (.feed (cmdData w))
  else if cmdData w ≠ 0 then .error (.reserved w)
  else if cmdOp w = 0b00#2 then .ok .nop
  else if cmdOp w = 0b01#2 then .ok .init
  else .ok .final

/-- The FF rows, `T[5:4] = 0`, by position `T[3:0]` (R66, R67). -/
def ffRows : List Instr :=
  [.ff00, .ff01, .ff02, .ff03, .ff04, .ff05, .ff06, .ff07,
   .ff08, .ff09, .ff10, .ff11, .ff12, .ff13, .ff14, .ff15]

/-- The GG rows, `T[5:4] = 1`, by position `T[3:0]` (R66, R67). -/
def ggRows : List Instr :=
  [.gg16, .gg17, .gg18, .gg19, .gg20, .gg21, .gg22, .gg23,
   .gg24, .gg25, .gg26, .gg27, .gg28, .gg29, .gg30, .gg31]

/-- The HH rows, `T[5:4] = 2`, by position `T[3:0]` (R66, R67). -/
def hhRows : List Instr :=
  [.hh32, .hh33, .hh34, .hh35, .hh36, .hh37, .hh38, .hh39,
   .hh40, .hh41, .hh42, .hh43, .hh44, .hh45, .hh46, .hh47]

/-- The II rows, `T[5:4] = 3`, by position `T[3:0]` (R66, R67). -/
def iiRows : List Instr :=
  [.ii48, .ii49, .ii50, .ii51, .ii52, .ii53, .ii54, .ii55,
   .ii56, .ii57, .ii58, .ii59, .ii60, .ii61, .ii62, .ii63]

/-- The 64 rows of the STEP format in the order of the step index (R67: row `t` has match `t`). -/
def stepRows : List Instr := ffRows ++ ggRows ++ hhRows ++ iiRows

/-- Every one of the 64 step indices selects a row (R66). -/
theorem stepRows_length : stepRows.length = 64 := by rfl

/-- The decoder of step indices: all 64 are assigned (R66, R67). -/
def decodeStep (t : StepIndex) : Instr :=
  stepRows[t.toNat]'(stepRows_length ▸ t.isLt)

/-- The decoder, total on both formats (R64, R67). -/
def decode : Code → Except DecodeError Instr
  | .cmd w => decodeCmd w
  | .step t => .ok (decodeStep t)

/-- The word of an instruction: for a command the opcode in bits 9:8 and the operand in bits 7:0 (R61),
for a step its index (R67). -/
def encode : Instr → Code
  | .nop => .cmd (0b00#2 ++ 0x00#8)
  | .init => .cmd (0b01#2 ++ 0x00#8)
  | .feed v => .cmd (0b10#2 ++ v)
  | .final => .cmd (0b11#2 ++ 0x00#8)
  | .ff00 => .step (0#2 ++ 0#4)
  | .ff01 => .step (0#2 ++ 1#4)
  | .ff02 => .step (0#2 ++ 2#4)
  | .ff03 => .step (0#2 ++ 3#4)
  | .ff04 => .step (0#2 ++ 4#4)
  | .ff05 => .step (0#2 ++ 5#4)
  | .ff06 => .step (0#2 ++ 6#4)
  | .ff07 => .step (0#2 ++ 7#4)
  | .ff08 => .step (0#2 ++ 8#4)
  | .ff09 => .step (0#2 ++ 9#4)
  | .ff10 => .step (0#2 ++ 10#4)
  | .ff11 => .step (0#2 ++ 11#4)
  | .ff12 => .step (0#2 ++ 12#4)
  | .ff13 => .step (0#2 ++ 13#4)
  | .ff14 => .step (0#2 ++ 14#4)
  | .ff15 => .step (0#2 ++ 15#4)
  | .gg16 => .step (1#2 ++ 0#4)
  | .gg17 => .step (1#2 ++ 1#4)
  | .gg18 => .step (1#2 ++ 2#4)
  | .gg19 => .step (1#2 ++ 3#4)
  | .gg20 => .step (1#2 ++ 4#4)
  | .gg21 => .step (1#2 ++ 5#4)
  | .gg22 => .step (1#2 ++ 6#4)
  | .gg23 => .step (1#2 ++ 7#4)
  | .gg24 => .step (1#2 ++ 8#4)
  | .gg25 => .step (1#2 ++ 9#4)
  | .gg26 => .step (1#2 ++ 10#4)
  | .gg27 => .step (1#2 ++ 11#4)
  | .gg28 => .step (1#2 ++ 12#4)
  | .gg29 => .step (1#2 ++ 13#4)
  | .gg30 => .step (1#2 ++ 14#4)
  | .gg31 => .step (1#2 ++ 15#4)
  | .hh32 => .step (2#2 ++ 0#4)
  | .hh33 => .step (2#2 ++ 1#4)
  | .hh34 => .step (2#2 ++ 2#4)
  | .hh35 => .step (2#2 ++ 3#4)
  | .hh36 => .step (2#2 ++ 4#4)
  | .hh37 => .step (2#2 ++ 5#4)
  | .hh38 => .step (2#2 ++ 6#4)
  | .hh39 => .step (2#2 ++ 7#4)
  | .hh40 => .step (2#2 ++ 8#4)
  | .hh41 => .step (2#2 ++ 9#4)
  | .hh42 => .step (2#2 ++ 10#4)
  | .hh43 => .step (2#2 ++ 11#4)
  | .hh44 => .step (2#2 ++ 12#4)
  | .hh45 => .step (2#2 ++ 13#4)
  | .hh46 => .step (2#2 ++ 14#4)
  | .hh47 => .step (2#2 ++ 15#4)
  | .ii48 => .step (3#2 ++ 0#4)
  | .ii49 => .step (3#2 ++ 1#4)
  | .ii50 => .step (3#2 ++ 2#4)
  | .ii51 => .step (3#2 ++ 3#4)
  | .ii52 => .step (3#2 ++ 4#4)
  | .ii53 => .step (3#2 ++ 5#4)
  | .ii54 => .step (3#2 ++ 6#4)
  | .ii55 => .step (3#2 ++ 7#4)
  | .ii56 => .step (3#2 ++ 8#4)
  | .ii57 => .step (3#2 ++ 9#4)
  | .ii58 => .step (3#2 ++ 10#4)
  | .ii59 => .step (3#2 ++ 11#4)
  | .ii60 => .step (3#2 ++ 12#4)
  | .ii61 => .step (3#2 ++ 13#4)
  | .ii62 => .step (3#2 ++ 14#4)
  | .ii63 => .step (3#2 ++ 15#4)

/-- How the host hands the decoder a row's word: a row of at most 8 bits is a step index (6 bits), any other a
command word (10 bits). A bit above the format's width is on no port, so a word that sets one is refused. -/
def decodeTableWord (nbits w : Nat) : Option Instr :=
  if nbits ≤ 8 then
    if w < 64 then some (decodeStep (BitVec.ofNat 6 w)) else none
  else if w < 1024 then
    match decodeCmd (BitVec.ofNat 10 w) with
    | .ok i => some i
    | .error _ => none
  else none

end Sys2Proof
end

