-- ==== Sys2Proof/Machine/State.lean ====
section
/-! DEFINITION. The state of one engine instance: the complete tuple of R13, the transient registers of the
compression function (R31, R32), the command port (R26, R29) and the model's own counter of free values; the
reasons a step could stop; the state right after hardware reset (R155). -/

namespace Sys2Proof.Machine

/-- The lifecycle register `PHASE` (R22). Its fourth code is unreachable and has no constructor (D26, U8). -/
inductive Phase where
  | uninit
  | accum
  | done
  deriving DecidableEq, Repr

/-- The error register `ERRCODE` (R24), with the causes of R138. -/
inductive ErrCode where
  /-- 0, NONE: no error since reset. -/
  | clean
  /-- 1, SEQ_UNINIT: FEED or FINAL before INIT. -/
  | seqUninit
  /-- 2, SEQ_DONE: FEED or FINAL after FINAL. -/
  | seqDone
  /-- 3, RSVD_ENC: a reserved command word. -/
  | rsvdEnc
  deriving DecidableEq, Repr

/-- The four accumulators `H[0..3]` (R16). -/
structure Accs where
  h0 : Word
  h1 : Word
  h2 : Word
  h3 : Word
  deriving DecidableEq, Repr

/-- The four working registers `a, b, c, d` of the compression function (R32). -/
structure WorkRegs where
  a : Word
  b : Word
  c : Word
  d : Word
  deriving DecidableEq, Repr

/-- The block buffer `BUF` (R18, R40) as a list of cells: addresses strictly rising, none listed that holds
what an unlisted address reads as. -/
abbrev Memory := List Host.Cell

/-- One event at the input ports, between commands (R26, R29, R157). -/
inductive Input where
  /-- The host issues a command word: `cmd_valid` and `cmd_ready` are both 1 (R29). -/
  | cmd (w : CmdWord)
  /-- The host pulses `rst` (R155). -/
  | rst
  deriving DecidableEq, Repr

/-- The state of one engine. -/
structure State where
  /-- `LEN`, the count of bytes absorbed (R14). -/
  len : Count
  /-- `H[0..3]`, the accumulators (R16). -/
  h : Accs
  /-- `BUF[0..63]`, the block buffer (R18, R40). -/
  buf : Memory
  /-- `PHASE`, the lifecycle (R22). -/
  phase : Phase
  /-- `ERRCODE`, the first protocol error since reset (R24). -/
  err : ErrCode
  /-- `a, b, c, d`, the working registers (R32); dead outside a compression (R36). -/
  work : WorkRegs
  /-- `T`, the step index (R31); no meaning outside a compression (R36). -/
  t : StepIndex
  /-- The negation of `cmd_ready` (R26, R29): inside one invocation of the compression function, seen at the
  step level (R11). False between commands. -/
  busy : Bool
  /-- The events at the input ports that are still to come, next first (R26, R29, R157). -/
  inputs : List Input
  /-- The model's own: how many free values have been drawn (Config). -/
  draws : Nat
  deriving DecidableEq, Repr

/-- Why the machine could stop with a fault: for no reason. Every command is total and cannot fail (R87, R135), no
access leaves the buffer (R47), and the one exception the engine has goes on to a next state (R137, R143). No
constructor, so that a fault is impossible by type: nobody raises one, and that is exact. -/
inductive Fault where
  deriving DecidableEq, Repr

/-- Why an instruction could have no meaning. -/
inductive Refusal where
  /-- An instruction without a meaning yet, rejected by name in exec's arm. Raised by nobody here, since every
  constructor has its meaning; it would be safe (the run stops). -/
  | notModelled (mnemonic : String)
  deriving DecidableEq, Repr

/-- The state after hardware reset (R155): `PHASE = UNINIT`, `ERRCODE = NONE`, ready for a command, none issued.
R155 leaves `LEN`, `H`, `BUF` unspecified and gives `a, b, c, d, T` no value: they are 0 here, DESIGN CHOICE,
unsafe (log entries 1 and 3); the counter of free values starts at 0, DESIGN CHOICE (log entry 4). -/
def State.reset : State where
  len := 0
  h := ⟨0, 0, 0, 0⟩
  buf := []
  phase := .uninit
  err := .clean
  work := ⟨0, 0, 0, 0⟩
  t := 0
  busy := false
  inputs := []
  draws := 0

end Sys2Proof.Machine
end

