-- ==== Sys2Proof/Machine/Ops.lean ====
section
/-! DEFINITION. The named operations over the block buffer and the registers: bytes and words of `BUF` (R10,
R40, R43), the fill pointer (R21), the one exception of the engine (R137), hardware reset (R155), and the
sequencing around an instruction (R29, R31). -/

namespace Sys2Proof.Machine

/-! ## The block buffer -/

/-- What a listed-nowhere address of `BUF` reads as: 0x00, the byte INIT writes everywhere (R77); after hardware
reset a DESIGN CHOICE, unsafe (log entry 2). -/
def Memory.unlisted : Byte := 0x00#8

/-- The byte of `BUF` at an address: `MemRead(addr, 1)` (R10). -/
def Memory.read : Memory → Nat → Byte
  | [], _ => Memory.unlisted
  | (k, v) :: rest, a => if k = a then v else Memory.read rest a

/-- A cell in front of a list, left out if it holds what an unlisted address reads as. -/
def Memory.put (a : Nat) (v : Byte) (rest : Memory) : Memory :=
  if v = Memory.unlisted then rest else (a, v) :: rest

/-- `BUF` with a byte stored at an address: `MemWrite(addr, 1, v)` (R10). It keeps the canonical form. -/
def Memory.write : Memory → Nat → Byte → Memory
  | [], a, v => Memory.put a v []
  | (k, b) :: rest, a, v =>
    if a < k then Memory.put a v ((k, b) :: rest)
    else if a = k then Memory.put a v rest
    else (k, b) :: Memory.write rest a v

/-- `BUF` with consecutive bytes stored from an address up: `MemWrite(addr, n, v)` for a list of `n` bytes (R10). -/
def Memory.writeBytes : Memory → Nat → List Byte → Memory
  | m, _, [] => m
  | m, a, v :: vs => Memory.writeBytes (Memory.write m a v) (a + 1) vs

/-- Every byte of `BUF` 0x00: what INIT leaves (R77). -/
def Memory.clear : Memory := []

/-- The canonical form from an address up. -/
def Memory.wfFrom : Nat → Memory → Bool
  | _, [] => true
  | lo, (k, v) :: rest =>
    decide (lo ≤ k) && decide (k < 64) && decide (v ≠ Memory.unlisted) && Memory.wfFrom (k + 1) rest

/-- The canonical form of the buffer: addresses strictly rising and below 64 (R40), no cell that holds what an
unlisted address reads as. -/
def Memory.wf (m : Memory) : Bool := Memory.wfFrom 0 m

/-- The little-endian word of four bytes, the first least significant: `le32` (R9). -/
def le32 (b0 b1 b2 b3 : Byte) : Word := b3 ++ b2 ++ b1 ++ b0

/-- `MemRead(addr, 4)`: four consecutive bytes of `BUF`, little-endian (R10, R43). -/
def Memory.readWord (m : Memory) (a : Nat) : Word :=
  le32 (m.read a) (m.read (a + 1)) (m.read (a + 2)) (m.read (a + 3))

/-- `LE32(w)`: the four bytes of a word, least significant first (R9). -/
def le32Bytes (w : Word) : List Byte :=
  [w.extractLsb' 0 8, w.extractLsb' 8 8, w.extractLsb' 16 8, w.extractLsb' 24 8]

/-- `LE64(w)`: the eight bytes of a 64-bit value, least significant first (R9). -/
def le64Bytes (w : Count) : List Byte :=
  [w.extractLsb' 0 8, w.extractLsb' 8 8, w.extractLsb' 16 8, w.extractLsb' 24 8,
   w.extractLsb' 32 8, w.extractLsb' 40 8, w.extractLsb' 48 8, w.extractLsb' 56 8]

/-! ## The registers -/

/-- `FILL = LEN[5:0]` (R21): the next buffer address, and how many bytes of the block are valid. -/
def State.fill (s : State) : BufAddr := s.len.extractLsb' 0 6

/-- `BUF[FILL] <- v` (R78). -/
def State.storeByte (v : Byte) (s : State) : State :=
  { s with buf := s.buf.write s.fill.toNat v }

/-- `LEN <- LEN +64 1` (R78): the count wraps silently (R15). -/
def State.countByte (s : State) : State := { s with len := s.len + 1 }

/-- The accumulators written (R17: by INIT, and by the compression function at its end). -/
def State.setAccs (h : Accs) (s : State) : State := { s with h := h }

/-- The working registers written (R32: by each step). -/
def State.setWork (w : WorkRegs) (s : State) : State := { s with work := w }

/-- `PHASE` written (R22: by INIT and FINAL). -/
def State.setPhase (p : Phase) (s : State) : State := { s with phase := p }

/-- The end of a compression for its transient registers: `a, b, c, d` and `T` hold no architectural value from
here on (R36, R106), so each takes a free value, and the number of the draw goes up (log entry 4). -/
def State.dropWork (s : State) : State :=
  { s with
    work := ⟨Config.freeWord s.draws 0, Config.freeWord s.draws 1, Config.freeWord s.draws 2,
      Config.freeWord s.draws 3⟩
    t := Config.freeIndex s.draws
    draws := s.draws + 1 }

/-! ## The exception and the reset -/

/-- `raise ProtocolError(code)` (R137), the engine's only exception: the code is recorded if none is yet (first
wins, R140), the command ends, nothing else is written. No pc or status is saved, no handler is entered and there
is nothing to return from (R137, R143). -/
def State.raise (code : ErrCode) (s : State) : State :=
  { s with err := if s.err = .clean then code else s.err }

/-- What `BUF` holds after a reset event: 64 free bytes (R155, log entry 4). -/
def freeBuf (draw : Nat) : Memory :=
  (List.range 64).foldl (fun m a => Memory.write m a (Config.freeByte draw a)) Memory.clear

/-- Hardware reset in the course of a run (R155, R157): `PHASE` and `ERRCODE` cleared, ready for a command; the
data state and the transient registers are unspecified, and two resets need not agree, so they are free values
(log entry 4). The events still to come are the host's and stay. -/
def State.hardReset (s : State) : State :=
  { s with
    len := Config.freeLen s.draws
    h := ⟨Config.freeWord s.draws 0, Config.freeWord s.draws 1, Config.freeWord s.draws 2,
      Config.freeWord s.draws 3⟩
    buf := freeBuf s.draws
    phase := .uninit
    err := .clean
    work := ⟨Config.freeWord s.draws 4, Config.freeWord s.draws 5, Config.freeWord s.draws 6,
      Config.freeWord s.draws 7⟩
    t := Config.freeIndex s.draws
    busy := false
    draws := s.draws + 1 }

/-! ## Delivering events -/

/-- The next event at the ports is taken. -/
def State.pop (s : State) : State := { s with inputs := s.inputs.tail }

/-- A command word placed as the next event, the engine ready for it (R29). -/
def State.placeCommand (w : CmdWord) (s : State) : State :=
  { s with busy := false, inputs := .cmd w :: s.inputs }

/-- The sequencer of the compression function placed at a step index (R31): the engine is inside one invocation
of the compression function, about to run that step. -/
def State.placeStep (t : StepIndex) (s : State) : State := { s with busy := true, t := t }

/-- A row of the opcode table placed as the next instruction: a row of at most 8 bits is a step index of the compression
function, any other a command word issued as the next event (log entry 6). -/
def State.placeRow (nbits w : Nat) (s : State) : State :=
  if nbits ≤ 8 then s.placeStep (BitVec.ofNat 6 w) else s.placeCommand (BitVec.ofNat 10 w)

end Sys2Proof.Machine
end

