-- ==== Sys2Proof/Machine/Operands.lean ====
section
/-! DEFINITION. The operands of a step: the message word, the message schedule `g`, the rotation amounts `S` and the
additive constants `K` (R33 to R35, R94, R95, R102, R103), and left rotation (R8). FEED's operand is the field
`cmd[7:0]`, read by the decoder (R62). -/

namespace Sys2Proof.Machine

/-- `M[j] = MemRead(4j, 4)`, the message word `j` of the block in the buffer (R33, R95). -/
def msgWord (m : Memory) (j : BitVec 4) : Word := m.readWord (4 * j.toNat)

/-- The round of a step, `T[5:4]` (R66). -/
def roundOf (t : StepIndex) : BitVec 2 := t.extractLsb' 4 2

/-- The position of a step in its round, `T[3:0]` (R66). -/
def positionOf (t : StepIndex) : BitVec 4 := t.extractLsb' 0 4

/-- The message schedule `g(t)` (R94). -/
def msgIndex (t : StepIndex) : BitVec 4 :=
  if t.toNat ≤ 15 then BitVec.ofNat 4 t.toNat
  else if t.toNat ≤ 31 then BitVec.ofNat 4 ((5 * t.toNat + 1) % 16)
  else if t.toNat ≤ 47 then BitVec.ofNat 4 ((3 * t.toNat + 5) % 16)
  else BitVec.ofNat 4 ((7 * t.toNat) % 16)

/-- The four rotation amounts of each round (the table under R103). -/
def rotRows : List (List Nat) := [[7, 12, 17, 22], [5, 9, 14, 20], [4, 11, 16, 23], [6, 10, 15, 21]]

/-- The rotation amount `S[t]`, by the round and `t mod 4` (R103). -/
def rotAmount (t : StepIndex) : Nat := (rotRows.getD (roundOf t).toNat []).getD (t.toNat % 4) 0

/-- The 64 additive constants, `K[0]` first (R102; the formula's rounding is `90_conflicts.md` C7). -/
def addConstants : List Word :=
  [0xd76aa478#32, 0xe8c7b756#32, 0x242070db#32, 0xc1bdceee#32, 0xf57c0faf#32, 0x4787c62a#32, 0xa8304613#32, 0xfd469501#32] ++
  [0x698098d8#32, 0x8b44f7af#32, 0xffff5bb1#32, 0x895cd7be#32, 0x6b901122#32, 0xfd987193#32, 0xa679438e#32, 0x49b40821#32] ++
  [0xf61e2562#32, 0xc040b340#32, 0x265e5a51#32, 0xe9b6c7aa#32, 0xd62f105d#32, 0x02441453#32, 0xd8a1e681#32, 0xe7d3fbc8#32] ++
  [0x21e1cde6#32, 0xc33707d6#32, 0xf4d50d87#32, 0x455a14ed#32, 0xa9e3e905#32, 0xfcefa3f8#32, 0x676f02d9#32, 0x8d2a4c8a#32] ++
  [0xfffa3942#32, 0x8771f681#32, 0x6d9d6122#32, 0xfde5380c#32, 0xa4beea44#32, 0x4bdecfa9#32, 0xf6bb4b60#32, 0xbebfbc70#32] ++
  [0x289b7ec6#32, 0xeaa127fa#32, 0xd4ef3085#32, 0x04881d05#32, 0xd9d4d039#32, 0xe6db99e5#32, 0x1fa27cf8#32, 0xc4ac5665#32] ++
  [0xf4292244#32, 0x432aff97#32, 0xab9423a7#32, 0xfc93a039#32, 0x655b59c3#32, 0x8f0ccc92#32, 0xffeff47d#32, 0x85845dd1#32] ++
  [0x6fa87e4f#32, 0xfe2ce6e0#32, 0xa3014314#32, 0x4e0811a1#32, 0xf7537e82#32, 0xbd3af235#32, 0x2ad7d2bb#32, 0xeb86d391#32]

/-- The additive constant `K[t]` (R102). -/
def addConst (t : StepIndex) : Word := addConstants.getD t.toNat 0

/-- Left rotation of a 32-bit value by 1 to 31 places (R8). -/
def rotl32 (x : Word) (n : Nat) : Word := (x <<< n) ||| (x >>> (32 - n))

end Sys2Proof.Machine
end

