-- ==== Sys2Proof/Machine/Compress.lean ====
section
/-! DEFINITION. The compression function (R90 to R113): the four nonlinear functions, the step operation, the 64
steps in order, the feed-forward; and its two uses in the state, whole inside a command (R78) and step by step (R11). -/

namespace Sys2Proof.Machine

/-- `fF(x, y, z)` (R97). -/
def fF (x y z : Word) : Word := (x &&& y) ||| (~~~x &&& z)

/-- `fG(x, y, z)` (R98). -/
def fG (x y z : Word) : Word := (x &&& z) ||| (y &&& ~~~z)

/-- `fH(x, y, z)` (R99). -/
def fH (x y z : Word) : Word := x ^^^ y ^^^ z

/-- `fI(x, y, z)` (R100). -/
def fI (x y z : Word) : Word := y ^^^ (x ||| ~~~z)

/-- The nonlinear function of a round (R101). -/
def roundFn (r : BitVec 2) : Word → Word → Word → Word :=
  if r = 0 then fF else if r = 1 then fG else if r = 2 then fH else fI

/-- The step operation on the working registers (R96), with the function `f`, the message word `m`, the constant
`k` and the rotation amount `r`: the complete sum is rotated (R111), and the four registers move at once (R105). -/
def roundStep (f : Word → Word → Word → Word) (m k : Word) (r : Nat) (w : WorkRegs) : WorkRegs :=
  let x := w.a + f w.b w.c w.d + m + k
  ⟨w.d, w.b + rotl32 x r, w.b, w.c⟩

/-- `step(t)` for a step index (R96): the function, the message word, the constant and the rotation amount are the
ones `t` selects (R94, R101 to R103); `words` is the block as sixteen words (R95). -/
def stepAt (words : BitVec 4 → Word) (t : StepIndex) (w : WorkRegs) : WorkRegs :=
  roundStep (roundFn (roundOf t)) (words (msgIndex t)) (addConst t) (rotAmount t) w

/-- Steps `T = 0` to `n - 1` in ascending order (R93). -/
def runSteps (words : BitVec 4 → Word) : Nat → WorkRegs → WorkRegs
  | 0, w => w
  | n + 1, w => stepAt words (BitVec.ofNat 6 n) (runSteps words n w)

/-- The working registers as plain copies of the accumulators (R92). -/
def Accs.toWork (h : Accs) : WorkRegs := ⟨h.h0, h.h1, h.h2, h.h3⟩

/-- The feed-forward (R106): each working register added to the accumulator it was loaded from, modulo 2^32. -/
def Accs.addWork (h : Accs) (w : WorkRegs) : Accs := ⟨h.h0 + w.a, h.h1 + w.b, h.h2 + w.c, h.h3 + w.d⟩

/-- `Compress()` as a pure function of the accumulators and the sixteen words of the block (R90). Irreducible, so that no
proof runs its 64 steps by accident; the kernel evaluates it. -/
@[irreducible] def compressBlock (h : Accs) (words : BitVec 4 → Word) : Accs :=
  h.addWork (runSteps words 64 h.toWork)

/-- `Compress()` inside a command (R78, R90): it reads `H` and the 64 bytes of `BUF` and writes `H`; the registers it
worked with are dead afterwards (R36, R106). -/
def State.compress (s : State) : State :=
  (s.setAccs (compressBlock s.h (msgWord s.buf))).dropWork

/-! ## The step level (R11) -/

/-- The start of a compression at the step level (R92): the working registers loaded, `T <- 0`, the engine busy. -/
def State.startCompression (s : State) : State := (s.setWork s.h.toWork).placeStep 0

/-- The end of a compression at the step level (R106): the feed-forward; the engine is ready again (R29). -/
def State.endCompression (s : State) : State :=
  { (s.setAccs (s.h.addWork s.work)).dropWork with busy := false }

/-- The sequencer after a step operation (R31, R93): the next step index, or after step 63 the end of the compression. -/
def State.advance (s : State) : State :=
  if s.t = 63 then s.endCompression else s.placeStep (s.t + 1)

end Sys2Proof.Machine
end

