-- ==== Sys2Proof/Machine/Padding.lean ====
section
/-! DEFINITION. The shared operations of FEED and FINAL: `absorb` (R78) and `Pad` (R120 to R124), and the buffer-level
formulation of the padding that the spec calls equal to it (R126). -/

namespace Sys2Proof.Machine

/-- `absorb(v)` (R78): the byte is stored at `FILL`, counted, and when it completed the block the compression
function runs (R54: in this order). -/
def State.absorb (v : Byte) (s : State) : State :=
  let s' := (s.storeByte v).countByte
  if s'.fill = 0 then s'.compress else s'

/-- Several bytes absorbed, first byte first. -/
def State.absorbAll (vs : List Byte) (s : State) : State := vs.foldl (fun s v => s.absorb v) s

/-- The bit length `L = (LEN << 3) mod 2^64` (R121). -/
def bitLength (len : Count) : Count := len <<< 3

/-- The zero fill (R123): 0x00 is absorbed while `FILL` is not 56, at most `n` times. -/
def State.zeroFill : Nat → State → State
  | 0, s => s
  | n + 1, s => if s.fill = 56 then s else State.zeroFill n (s.absorb 0x00#8)

/-- `Pad()` (R120): the bit length is captured first (R121), then the marker (R122), the zero fill (R123; at most 63
bytes) and the length field (R124) are absorbed. Irreducible, so that no proof runs it by accident. -/
@[irreducible] def State.pad (s : State) : State :=
  let l := bitLength s.len
  ((s.absorb 0x80#8).zeroFill 64).absorbAll (le64Bytes l)

/-- `BUF[r .. r + n - 1] <- 0x00` (R126). -/
def Memory.zeros (m : Memory) (r n : Nat) : Memory := m.writeBytes r (List.replicate n 0x00#8)

/-- The buffer-level formulation of the padding (R126), as block writes; it does not count the bytes in `LEN`. -/
def State.padBuffer (s : State) : State :=
  let l := bitLength s.len
  let r := s.fill.toNat + 1
  let s1 := s.storeByte 0x80#8
  let s2 := if r > 56 then State.compress { s1 with buf := s1.buf.zeros r (64 - r) } else s1
  let r2 := if r > 56 then 0 else r
  let s3 := { s2 with buf := s2.buf.zeros r2 (56 - r2) }
  State.compress { s3 with buf := s3.buf.writeBytes 56 (le64Bytes l) }

end Sys2Proof.Machine
end

