-- ==== Sys2Proof/Machine/Command.lean ====
section
/-! DEFINITION. The meanings of the four host commands (R75 to R87): NOP, INIT, FEED, FINAL. -/

namespace Sys2Proof.Machine

/-- The four initial constants IV (R16). -/
def initAccs : Accs := ⟨0x67452301#32, 0xefcdab89#32, 0x98badcfe#32, 0x10325476#32⟩

/-- `do_INIT` (R77): everything but `ERRCODE` gets its starting value; no state is read. -/
def State.initialize (s : State) : State :=
  { s with len := 0, h := initAccs, buf := Memory.clear, phase := .accum }

/-- The phase check of FEED and FINAL (R75): outside ACCUM the command is dropped with its protocol error (R137,
R138). -/
def State.inAccum (body : State → State) (s : State) : State :=
  match s.phase with
  | .uninit => s.raise .seqUninit
  | .done => s.raise .seqDone
  | .accum => body s

/-- NOP (R76): no statement. -/
def execNop (s : State) : Host.Outcome State Fault Refusal := .next s

/-- INIT (R77, R86): legal in every phase. -/
def execInit (s : State) : Host.Outcome State Fault Refusal := .next s.initialize

/-- FEED (R80): one byte absorbed. -/
def execFeed (v : Byte) (s : State) : Host.Outcome State Fault Refusal :=
  .next (s.inAccum (State.absorb v))

/-- FINAL (R83): the padding (R120), then `PHASE <- DONE` (R129). -/
def execFinal (s : State) : Host.Outcome State Fault Refusal :=
  .next (s.inAccum fun s => s.pad.setPhase .done)

end Sys2Proof.Machine
end

