-- ==== Sys2Proof/Machine/StepFF.lean ====
section
/-! DEFINITION. The FF steps, round 0 of the compression function (R107): the step operation of R96 with
the function `fF` on each row of R104. A row's literals are the message-word index, the rotation amount and
the additive constant, as R104 and spec/opcode_table.json print them. -/

namespace Sys2Proof.Machine

/-- The step operation of the family FF: R96 with `f = fF` (R107), on message word `g`, rotation `r` and
constant `k`. It writes the working registers and nothing else. -/
def stepFF (g : BitVec 4) (r : Nat) (k : Word) (s : State) : State :=
  s.setWork (roundStep fF (msgWord s.buf g) k r s.work)

/-- FF00 (R107; its row of R104). -/
def execFf00 (s : State) : Host.Outcome State Fault Refusal :=
  .next (stepFF 0 7 0xd76aa478#32 s)

/-- FF01 (R107; its row of R104). -/
def execFf01 (s : State) : Host.Outcome State Fault Refusal :=
  .next (stepFF 1 12 0xe8c7b756#32 s)

/-- FF02 (R107; its row of R104). -/
def execFf02 (s : State) : Host.Outcome State Fault Refusal :=
  .next (stepFF 2 17 0x242070db#32 s)

/-- FF03 (R107; its row of R104). -/
def execFf03 (s : State) : Host.Outcome State Fault Refusal :=
  .next (stepFF 3 22 0xc1bdceee#32 s)

/-- FF04 (R107; its row of R104). -/
def execFf04 (s : State) : Host.Outcome State Fault Refusal :=
  .next (stepFF 4 7 0xf57c0faf#32 s)

/-- FF05 (R107; its row of R104). -/
def execFf05 (s : State) : Host.Outcome State Fault Refusal :=
  .next (stepFF 5 12 0x4787c62a#32 s)

/-- FF06 (R107; its row of R104). -/
def execFf06 (s : State) : Host.Outcome State Fault Refusal :=
  .next (stepFF 6 17 0xa8304613#32 s)

/-- FF07 (R107; its row of R104). -/
def execFf07 (s : State) : Host.Outcome State Fault Refusal :=
  .next (stepFF 7 22 0xfd469501#32 s)

/-- FF08 (R107; its row of R104). -/
def execFf08 (s : State) : Host.Outcome State Fault Refusal :=
  .next (stepFF 8 7 0x698098d8#32 s)

/-- FF09 (R107; its row of R104). -/
def execFf09 (s : State) : Host.Outcome State Fault Refusal :=
  .next (stepFF 9 12 0x8b44f7af#32 s)

/-- FF10 (R107; its row of R104). -/
def execFf10 (s : State) : Host.Outcome State Fault Refusal :=
  .next (stepFF 10 17 0xffff5bb1#32 s)

/-- FF11 (R107; its row of R104). -/
def execFf11 (s : State) : Host.Outcome State Fault Refusal :=
  .next (stepFF 11 22 0x895cd7be#32 s)

/-- FF12 (R107; its row of R104). -/
def execFf12 (s : State) : Host.Outcome State Fault Refusal :=
  .next (stepFF 12 7 0x6b901122#32 s)

/-- FF13 (R107; its row of R104). -/
def execFf13 (s : State) : Host.Outcome State Fault Refusal :=
  .next (stepFF 13 12 0xfd987193#32 s)

/-- FF14 (R107; its row of R104). -/
def execFf14 (s : State) : Host.Outcome State Fault Refusal :=
  .next (stepFF 14 17 0xa679438e#32 s)

/-- FF15 (R107; its row of R104). -/
def execFf15 (s : State) : Host.Outcome State Fault Refusal :=
  .next (stepFF 15 22 0x49b40821#32 s)

end Sys2Proof.Machine
end

