-- ==== Sys2Proof/Machine/StepGG.lean ====
section
/-! DEFINITION. The GG steps, round 1 of the compression function (R108): the step operation of R96 with
the function `fG` on each row of R104. A row's literals are the message-word index, the rotation amount and
the additive constant, as R104 and spec/opcode_table.json print them. -/

namespace Sys2Proof.Machine

/-- The step operation of the family GG: R96 with `f = fG` (R108), on message word `g`, rotation `r` and
constant `k`. It writes the working registers and nothing else. -/
def stepGG (g : BitVec 4) (r : Nat) (k : Word) (s : State) : State :=
  s.setWork (roundStep fG (msgWord s.buf g) k r s.work)

/-- GG16 (R108; its row of R104). -/
def execGg16 (s : State) : Host.Outcome State Fault Refusal :=
  .next (stepGG 1 5 0xf61e2562#32 s)

/-- GG17 (R108; its row of R104). -/
def execGg17 (s : State) : Host.Outcome State Fault Refusal :=
  .next (stepGG 6 9 0xc040b340#32 s)

/-- GG18 (R108; its row of R104). -/
def execGg18 (s : State) : Host.Outcome State Fault Refusal :=
  .next (stepGG 11 14 0x265e5a51#32 s)

/-- GG19 (R108; its row of R104). -/
def execGg19 (s : State) : Host.Outcome State Fault Refusal :=
  .next (stepGG 0 20 0xe9b6c7aa#32 s)

/-- GG20 (R108; its row of R104). -/
def execGg20 (s : State) : Host.Outcome State Fault Refusal :=
  .next (stepGG 5 5 0xd62f105d#32 s)

/-- GG21 (R108; its row of R104). -/
def execGg21 (s : State) : Host.Outcome State Fault Refusal :=
  .next (stepGG 10 9 0x02441453#32 s)

/-- GG22 (R108; its row of R104). -/
def execGg22 (s : State) : Host.Outcome State Fault Refusal :=
  .next (stepGG 15 14 0xd8a1e681#32 s)

/-- GG23 (R108; its row of R104). -/
def execGg23 (s : State) : Host.Outcome State Fault Refusal :=
  .next (stepGG 4 20 0xe7d3fbc8#32 s)

/-- GG24 (R108; its row of R104). -/
def execGg24 (s : State) : Host.Outcome State Fault Refusal :=
  .next (stepGG 9 5 0x21e1cde6#32 s)

/-- GG25 (R108; its row of R104). -/
def execGg25 (s : State) : Host.Outcome State Fault Refusal :=
  .next (stepGG 14 9 0xc33707d6#32 s)

/-- GG26 (R108; its row of R104). -/
def execGg26 (s : State) : Host.Outcome State Fault Refusal :=
  .next (stepGG 3 14 0xf4d50d87#32 s)

/-- GG27 (R108; its row of R104). -/
def execGg27 (s : State) : Host.Outcome State Fault Refusal :=
  .next (stepGG 8 20 0x455a14ed#32 s)

/-- GG28 (R108; its row of R104). -/
def execGg28 (s : State) : Host.Outcome State Fault Refusal :=
  .next (stepGG 13 5 0xa9e3e905#32 s)

/-- GG29 (R108; its row of R104). -/
def execGg29 (s : State) : Host.Outcome State Fault Refusal :=
  .next (stepGG 2 9 0xfcefa3f8#32 s)

/-- GG30 (R108; its row of R104). -/
def execGg30 (s : State) : Host.Outcome State Fault Refusal :=
  .next (stepGG 7 14 0x676f02d9#32 s)

/-- GG31 (R108; its row of R104). -/
def execGg31 (s : State) : Host.Outcome State Fault Refusal :=
  .next (stepGG 12 20 0x8d2a4c8a#32 s)

end Sys2Proof.Machine
end

