-- ==== Sys2Proof/Machine/StepHH.lean ====
section
/-! DEFINITION. The HH steps, round 2 of the compression function (R109): the step operation of R96 with
the function `fH` on each row of R104. A row's literals are the message-word index, the rotation amount and
the additive constant, as R104 and spec/opcode_table.json print them. -/

namespace Sys2Proof.Machine

/-- The step operation of the family HH: R96 with `f = fH` (R109), on message word `g`, rotation `r` and
constant `k`. It writes the working registers and nothing else. -/
def stepHH (g : BitVec 4) (r : Nat) (k : Word) (s : State) : State :=
  s.setWork (roundStep fH (msgWord s.buf g) k r s.work)

/-- HH32 (R109; its row of R104). -/
def execHh32 (s : State) : Host.Outcome State Fault Refusal :=
  .next (stepHH 5 4 0xfffa3942#32 s)

/-- HH33 (R109; its row of R104). -/
def execHh33 (s : State) : Host.Outcome State Fault Refusal :=
  .next (stepHH 8 11 0x8771f681#32 s)

/-- HH34 (R109; its row of R104). -/
def execHh34 (s : State) : Host.Outcome State Fault Refusal :=
  .next (stepHH 11 16 0x6d9d6122#32 s)

/-- HH35 (R109; its row of R104). -/
def execHh35 (s : State) : Host.Outcome State Fault Refusal :=
  .next (stepHH 14 23 0xfde5380c#32 s)

/-- HH36 (R109; its row of R104). -/
def execHh36 (s : State) : Host.Outcome State Fault Refusal :=
  .next (stepHH 1 4 0xa4beea44#32 s)

/-- HH37 (R109; its row of R104). -/
def execHh37 (s : State) : Host.Outcome State Fault Refusal :=
  .next (stepHH 4 11 0x4bdecfa9#32 s)

/-- HH38 (R109; its row of R104). -/
def execHh38 (s : State) : Host.Outcome State Fault Refusal :=
  .next (stepHH 7 16 0xf6bb4b60#32 s)

/-- HH39 (R109; its row of R104). -/
def execHh39 (s : State) : Host.Outcome State Fault Refusal :=
  .next (stepHH 10 23 0xbebfbc70#32 s)

/-- HH40 (R109; its row of R104). -/
def execHh40 (s : State) : Host.Outcome State Fault Refusal :=
  .next (stepHH 13 4 0x289b7ec6#32 s)

/-- HH41 (R109; its row of R104). -/
def execHh41 (s : State) : Host.Outcome State Fault Refusal :=
  .next (stepHH 0 11 0xeaa127fa#32 s)

/-- HH42 (R109; its row of R104). -/
def execHh42 (s : State) : Host.Outcome State Fault Refusal :=
  .next (stepHH 3 16 0xd4ef3085#32 s)

/-- HH43 (R109; its row of R104). -/
def execHh43 (s : State) : Host.Outcome State Fault Refusal :=
  .next (stepHH 6 23 0x04881d05#32 s)

/-- HH44 (R109; its row of R104). -/
def execHh44 (s : State) : Host.Outcome State Fault Refusal :=
  .next (stepHH 9 4 0xd9d4d039#32 s)

/-- HH45 (R109; its row of R104). -/
def execHh45 (s : State) : Host.Outcome State Fault Refusal :=
  .next (stepHH 12 11 0xe6db99e5#32 s)

/-- HH46 (R109; its row of R104). -/
def execHh46 (s : State) : Host.Outcome State Fault Refusal :=
  .next (stepHH 15 16 0x1fa27cf8#32 s)

/-- HH47 (R109; its row of R104). -/
def execHh47 (s : State) : Host.Outcome State Fault Refusal :=
  .next (stepHH 2 23 0xc4ac5665#32 s)

end Sys2Proof.Machine
end

