-- ==== Sys2Proof/Machine/StepII.lean ====
section
/-! DEFINITION. The II steps, round 3 of the compression function (R110): the step operation of R96 with
the function `fI` on each row of R104. A row's literals are the message-word index, the rotation amount and
the additive constant, as R104 and spec/opcode_table.json print them. -/

namespace Sys2Proof.Machine

/-- The step operation of the family II: R96 with `f = fI` (R110), on message word `g`, rotation `r` and
constant `k`. It writes the working registers and nothing else. -/
def stepII (g : BitVec 4) (r : Nat) (k : Word) (s : State) : State :=
  s.setWork (roundStep fI (msgWord s.buf g) k r s.work)

/-- II48 (R110; its row of R104). -/
def execIi48 (s : State) : Host.Outcome State Fault Refusal :=
  .next (stepII 0 6 0xf4292244#32 s)

/-- II49 (R110; its row of R104). -/
def execIi49 (s : State) : Host.Outcome State Fault Refusal :=
  .next (stepII 7 10 0x432aff97#32 s)

/-- II50 (R110; its row of R104). -/
def execIi50 (s : State) : Host.Outcome State Fault Refusal :=
  .next (stepII 14 15 0xab9423a7#32 s)

/-- II51 (R110; its row of R104). -/
def execIi51 (s : State) : Host.Outcome State Fault Refusal :=
  .next (stepII 5 21 0xfc93a039#32 s)

/-- II52 (R110; its row of R104). -/
def execIi52 (s : State) : Host.Outcome State Fault Refusal :=
  .next (stepII 12 6 0x655b59c3#32 s)

/-- II53 (R110; its row of R104). -/
def execIi53 (s : State) : Host.Outcome State Fault Refusal :=
  .next (stepII 3 10 0x8f0ccc92#32 s)

/-- II54 (R110; its row of R104). -/
def execIi54 (s : State) : Host.Outcome State Fault Refusal :=
  .next (stepII 10 15 0xffeff47d#32 s)

/-- II55 (R110; its row of R104). -/
def execIi55 (s : State) : Host.Outcome State Fault Refusal :=
  .next (stepII 1 21 0x85845dd1#32 s)

/-- II56 (R110; its row of R104). -/
def execIi56 (s : State) : Host.Outcome State Fault Refusal :=
  .next (stepII 8 6 0x6fa87e4f#32 s)

/-- II57 (R110; its row of R104). -/
def execIi57 (s : State) : Host.Outcome State Fault Refusal :=
  .next (stepII 15 10 0xfe2ce6e0#32 s)

/-- II58 (R110; its row of R104). -/
def execIi58 (s : State) : Host.Outcome State Fault Refusal :=
  .next (stepII 6 15 0xa3014314#32 s)

/-- II59 (R110; its row of R104). -/
def execIi59 (s : State) : Host.Outcome State Fault Refusal :=
  .next (stepII 13 21 0x4e0811a1#32 s)

/-- II60 (R110; its row of R104). -/
def execIi60 (s : State) : Host.Outcome State Fault Refusal :=
  .next (stepII 4 6 0xf7537e82#32 s)

/-- II61 (R110; its row of R104). -/
def execIi61 (s : State) : Host.Outcome State Fault Refusal :=
  .next (stepII 11 10 0xbd3af235#32 s)

/-- II62 (R110; its row of R104). -/
def execIi62 (s : State) : Host.Outcome State Fault Refusal :=
  .next (stepII 2 15 0x2ad7d2bb#32 s)

/-- II63 (R110; its row of R104). -/
def execIi63 (s : State) : Host.Outcome State Fault Refusal :=
  .next (stepII 9 21 0xeb86d391#32 s)

end Sys2Proof.Machine
end

