-- ==== Sys2Proof/Machine/Dispatch.lean ====
section
/-! DEFINITION. The dispatch: one arm per constructor of Instr, one call of its meaning. -/

namespace Sys2Proof.Machine

def exec (i : Instr) (s : State) : Host.Outcome State Fault Refusal :=
  match i with
  | .nop => Sys2Proof.Machine.execNop s
  | .init => Sys2Proof.Machine.execInit s
  | .feed v => Sys2Proof.Machine.execFeed v s
  | .final => Sys2Proof.Machine.execFinal s
  | .ff00 => Sys2Proof.Machine.execFf00 s
  | .ff01 => Sys2Proof.Machine.execFf01 s
  | .ff02 => Sys2Proof.Machine.execFf02 s
  | .ff03 => Sys2Proof.Machine.execFf03 s
  | .ff04 => Sys2Proof.Machine.execFf04 s
  | .ff05 => Sys2Proof.Machine.execFf05 s
  | .ff06 => Sys2Proof.Machine.execFf06 s
  | .ff07 => Sys2Proof.Machine.execFf07 s
  | .ff08 => Sys2Proof.Machine.execFf08 s
  | .ff09 => Sys2Proof.Machine.execFf09 s
  | .ff10 => Sys2Proof.Machine.execFf10 s
  | .ff11 => Sys2Proof.Machine.execFf11 s
  | .ff12 => Sys2Proof.Machine.execFf12 s
  | .ff13 => Sys2Proof.Machine.execFf13 s
  | .ff14 => Sys2Proof.Machine.execFf14 s
  | .ff15 => Sys2Proof.Machine.execFf15 s
  | .gg16 => Sys2Proof.Machine.execGg16 s
  | .gg17 => Sys2Proof.Machine.execGg17 s
  | .gg18 => Sys2Proof.Machine.execGg18 s
  | .gg19 => Sys2Proof.Machine.execGg19 s
  | .gg20 => Sys2Proof.Machine.execGg20 s
  | .gg21 => Sys2Proof.Machine.execGg21 s
  | .gg22 => Sys2Proof.Machine.execGg22 s
  | .gg23 => Sys2Proof.Machine.execGg23 s
  | .gg24 => Sys2Proof.Machine.execGg24 s
  | .gg25 => Sys2Proof.Machine.execGg25 s
  | .gg26 => Sys2Proof.Machine.execGg26 s
  | .gg27 => Sys2Proof.Machine.execGg27 s
  | .gg28 => Sys2Proof.Machine.execGg28 s
  | .gg29 => Sys2Proof.Machine.execGg29 s
  | .gg30 => Sys2Proof.Machine.execGg30 s
  | .gg31 => Sys2Proof.Machine.execGg31 s
  | .hh32 => Sys2Proof.Machine.execHh32 s
  | .hh33 => Sys2Proof.Machine.execHh33 s
  | .hh34 => Sys2Proof.Machine.execHh34 s
  | .hh35 => Sys2Proof.Machine.execHh35 s
  | .hh36 => Sys2Proof.Machine.execHh36 s
  | .hh37 => Sys2Proof.Machine.execHh37 s
  | .hh38 => Sys2Proof.Machine.execHh38 s
  | .hh39 => Sys2Proof.Machine.execHh39 s
  | .hh40 => Sys2Proof.Machine.execHh40 s
  | .hh41 => Sys2Proof.Machine.execHh41 s
  | .hh42 => Sys2Proof.Machine.execHh42 s
  | .hh43 => Sys2Proof.Machine.execHh43 s
  | .hh44 => Sys2Proof.Machine.execHh44 s
  | .hh45 => Sys2Proof.Machine.execHh45 s
  | .hh46 => Sys2Proof.Machine.execHh46 s
  | .hh47 => Sys2Proof.Machine.execHh47 s
  | .ii48 => Sys2Proof.Machine.execIi48 s
  | .ii49 => Sys2Proof.Machine.execIi49 s
  | .ii50 => Sys2Proof.Machine.execIi50 s
  | .ii51 => Sys2Proof.Machine.execIi51 s
  | .ii52 => Sys2Proof.Machine.execIi52 s
  | .ii53 => Sys2Proof.Machine.execIi53 s
  | .ii54 => Sys2Proof.Machine.execIi54 s
  | .ii55 => Sys2Proof.Machine.execIi55 s
  | .ii56 => Sys2Proof.Machine.execIi56 s
  | .ii57 => Sys2Proof.Machine.execIi57 s
  | .ii58 => Sys2Proof.Machine.execIi58 s
  | .ii59 => Sys2Proof.Machine.execIi59 s
  | .ii60 => Sys2Proof.Machine.execIi60 s
  | .ii61 => Sys2Proof.Machine.execIi61 s
  | .ii62 => Sys2Proof.Machine.execIi62 s
  | .ii63 => Sys2Proof.Machine.execIi63 s

end Sys2Proof.Machine
end

