-- ==== Sys2Proof/Machine/Sequencer.lean ====
section
/-! DEFINITION. The sequencing around an instruction. Inside a compression (the step level, R11) the sequencer runs the
step operation its index selects (R31, R93). Otherwise the next event at the ports is taken: a reset (R155, R157), or a
command word, decoded before anything else (R75). -/

namespace Sys2Proof.Machine

/-- A step operation run by the sequencer: the row the index selects, then the sequencer moves on (R93). -/
def stepCompression (s : State) : Host.Outcome State Fault Refusal :=
  match exec (decodeStep s.t) s with
  | .next s' => .next s'.advance
  | .fault r => .fault r
  | .refused r => .refused r

/-- A command word executed (R75): a reserved word raises RSVD_ENC whatever the phase (R141). -/
def stepCommand (w : CmdWord) (s : State) : Host.Outcome State Fault Refusal :=
  match decodeCmd w with
  | .ok i => exec i s
  | .error _ => .next (s.raise .rsvdEnc)

/-- What the machine does next: inside a compression the sequencer runs a step operation; otherwise the next event at the
ports is taken, a reset or a command; with none the engine is idle and holds its state (R153). -/
def runNext (s : State) : Host.Outcome State Fault Refusal :=
  if s.busy then stepCompression s
  else
    match s.inputs with
    | [] => .next s
    | .rst :: _ => .next s.pop.hardReset
    | .cmd w :: _ => stepCommand w s.pop

end Sys2Proof.Machine
end

