-- ==== Sys2Proof/Machine/Step.lean ====
section
/-! DEFINITION. One step of the machine, and where it takes its next instruction from. -/

namespace Sys2Proof.Machine

/-- One step of the machine (R29, R75, R93, R153, R157). -/
def step (s : State) : Host.Outcome State Fault Refusal := runNext s

/-- The state with an instruction placed where `step` takes its next one from. -/
def State.withFetchWord (s : State) (nbits w : Nat) : State := s.placeRow nbits w

end Sys2Proof.Machine
end

