-- ==== Sys2Proof/Machine/Flags.lean ====
section
/-! DEFINITION. The outputs the engine derives from its registers (R25 to R28, R84, R85, R128): `err`,
`digest_valid`, `status`, `digest`. There are no arithmetic flags (R25, R111). -/

namespace Sys2Proof.Machine

/-- The code of a phase on `status[1:0]` (R22). -/
def Phase.code : Phase → BitVec 2
  | .uninit => 0
  | .accum => 1
  | .done => 2

/-- The code of an error on `status[3:2]` (R24, R138). -/
def ErrCode.code : ErrCode → BitVec 2
  | .clean => 0
  | .seqUninit => 1
  | .seqDone => 2
  | .rsvdEnc => 3

/-- `err = (ERRCODE != 0)` (R25). -/
def State.errFlag (s : State) : Bool := decide (s.err ≠ .clean)

/-- `digest_valid = (PHASE = DONE)` (R25). -/
def State.digestValid (s : State) : Bool := decide (s.phase = .done)

/-- `cmd_ready` (R26, R29). -/
def State.cmdReady (s : State) : Bool := !s.busy

/-- `status[3:0]`: `ERRCODE` in bits 3:2, `PHASE` in bits 1:0 (R27). -/
def State.status (s : State) : BitVec 4 := s.err.code ++ s.phase.code

/-- `DIGEST[0..15]`: the four accumulators little-endian, in order (R128). -/
def Accs.digestBytes (h : Accs) : List Byte :=
  le32Bytes h.h0 ++ le32Bytes h.h1 ++ le32Bytes h.h2 ++ le32Bytes h.h3

/-- The 128 bits of the digest: `H[0]` in bits 31:0 up to `H[3]` in bits 127:96 (R128). -/
def Accs.digestBits (h : Accs) : BitVec 128 := h.h3 ++ h.h2 ++ h.h1 ++ h.h0

/-- The port `digest[127:0]` (R28): a value only while `digest_valid = 1`; a read at any other time has none
(R85, U4). -/
def State.digest (s : State) : Option (BitVec 128) :=
  if s.digestValid then some s.h.digestBits else none

/-- What the host sees when it samples the outputs (R26, R84). -/
structure Outputs where
  status : BitVec 4
  err : Bool
  digestValid : Bool
  digest : Option (BitVec 128)
  deriving DecidableEq, Repr

/-- The host samples the outputs. While a command is in progress (`cmd_ready = 0`) they are unspecified and a
sample has no value (R84, U5). Sampling changes nothing. -/
def State.sample (s : State) : Option Outputs :=
  if s.cmdReady then some ⟨s.status, s.errFlag, s.digestValid, s.digest⟩ else none

end Sys2Proof.Machine
end

