-- ==== Sys2Proof/Safety.lean ====
section
/-! DEFINITION. The terms in which claims about the engine are made: what a safe state and a clean run are, the
invariants I1 and I2 of an accumulating engine (R19, R20), when two engines are indistinguishable (R38), the digest as
a closed function of the message (R134), and sequences of instructions. The machine uses none of it. -/

namespace Sys2Proof.Safety

open Sys2Proof.Machine

/-- The invariant of the machine: the block buffer is in its canonical form, every listed address below 64 (R40). -/
def CanonicalBuffer (s : State) : Prop := s.buf.wf = true

/-- Between commands (R29, R36): no compression is in progress. -/
def Ready (s : State) : Prop := s.busy = false

/-- A clean run so far: no protocol error since reset (R140; every claim about a command sequence takes it as a premise). -/
def Clean (s : State) : Prop := s.err = .clean

/-- The tuple that is the complete state of an engine (R13), as one value. -/
def core (s : State) : Count × Accs × Memory × Phase × ErrCode := (s.len, s.h, s.buf, s.phase, s.err)

/-- Instructions run one after another; it stops where one does not answer a next state. -/
def execAll : List Instr → State → Host.Outcome State Fault Refusal
  | [], s => .next s
  | i :: is, s =>
    match exec i s with
    | .next s' => execAll is s'
    | .fault r => .fault r
    | .refused r => .refused r

/-- The host commands among the instructions (R61); the others are step operations (R67). -/
def isCommand : Instr → Bool
  | .nop => true
  | .init => true
  | .feed _ => true
  | .final => true
  | _ => false

/-! ## The digest as a function of the message (R134) -/

/-- The message word `j` of a block given as a list of bytes, little-endian (R95). -/
def blockWord (block : List Byte) (j : BitVec 4) : Word :=
  le32 (block.getD (4 * j.toNat) 0) (block.getD (4 * j.toNat + 1) 0) (block.getD (4 * j.toNat + 2) 0)
    (block.getD (4 * j.toNat + 3) 0)

/-- The first `n` 64-byte blocks of a byte sequence compressed in order, from the accumulators `h` (R134: `h_(i+1) =
compress(h_i, P_i)`). -/
def hashBlocks : Nat → Accs → List Byte → Accs
  | 0, h, _ => h
  | n + 1, h, bytes => hashBlocks n (compressBlock h (blockWord bytes)) (bytes.drop 64)

/-- The padded message `P = S || 0x80 || 0x00^z || LE64((8n) mod 2^64)` with `z = (55 - n) mod 64` (R134). -/
def padded (msg : List Byte) : List Byte :=
  msg ++ [0x80#8] ++ List.replicate ((119 - msg.length % 64) % 64) 0x00#8
    ++ le64Bytes (BitVec.ofNat 64 (8 * msg.length))

/-- The digest of a message: the accumulators after all blocks of the padded message, from IV (R134). -/
def digestOf (msg : List Byte) : Accs := hashBlocks ((padded msg).length / 64) initAccs (padded msg)

/-! ## The padding of the message in the engine (R120 to R125) -/

/-- The valid bytes of the buffer, `BUF[0 .. FILL-1]` (R19). -/
def validBytes (s : State) : List Byte := (List.range s.fill.toNat).map s.buf.read

/-- The one block FINAL compresses when `FILL <= 55`: the valid bytes, the marker, zeros, the length (R125). -/
def shortBlock (s : State) : List Byte :=
  validBytes s ++ [0x80#8] ++ List.replicate (55 - s.fill.toNat) 0x00#8 ++ le64Bytes (bitLength s.len)

/-- The first of the two blocks FINAL compresses when `FILL >= 56`: the valid bytes, the marker, zeros (R125). -/
def longBlock (s : State) : List Byte :=
  validBytes s ++ [0x80#8] ++ List.replicate (63 - s.fill.toNat) 0x00#8

/-- The second of the two blocks: 56 zeros and the length (R125). -/
def lengthBlock (s : State) : List Byte :=
  List.replicate 56 0x00#8 ++ le64Bytes (bitLength s.len)

/-! ## The invariants of an accumulating engine -/

/-- I1 and I2 (R19, R20) for an engine that has absorbed the message `msg` since INIT: the count is the length modulo
2^64 (R15), the accumulators are the compression of the complete blocks from IV, and the valid bytes of the buffer are
the last `FILL` bytes of the message. -/
structure Accumulated (msg : List Byte) (s : State) : Prop where
  phase : s.phase = .accum
  canonical : s.buf.wf = true
  count : s.len = BitVec.ofNat 64 msg.length
  chaining : s.h = hashBlocks (msg.length / 64) initAccs msg
  valid : ∀ k, k < msg.length % 64 → s.buf.read k = msg.getD (64 * (msg.length / 64) + k) 0

/-! ## Indistinguishable engines -/

/-- Two engines that agree on `(PHASE, ERRCODE, H, LEN, BUF[0 .. FILL-1])`, both between commands (R38). -/
structure Agree (s t : State) : Prop where
  ready : s.busy = false ∧ t.busy = false
  phase : s.phase = t.phase
  err : s.err = t.err
  accs : s.h = t.h
  count : s.len = t.len
  valid : ∀ k, k < s.fill.toNat → s.buf.read k = t.buf.read k

/-- The transitions of `PHASE` that a command may make (R23). -/
def PhaseMay (i : Instr) (p q : Phase) : Prop :=
  match i, p with
  | .init, _ => q = .accum
  | .final, .accum => q = .done
  | _, _ => q = p

end Sys2Proof.Safety
end

