-- ==== Sys2Proof/Certificates/Slice0/Obligations.lean ====
section
/-! DEFINITION. The statements about the engine, for the provers: each formalises rules of spec/ and says which. -/

open Sys2Proof Sys2Proof.Machine Sys2Proof.Safety

/-- O1, tier 1 (70_reset_and_hazards.md R155, 10_state.md R28, 70_reset_and_hazards.md R158). In State.reset PHASE
is UNINIT and ERRCODE is NONE, status is 0b0000, err and digest_valid are 0, the digest port has no value, and
cmd_ready is 1 (the last is deduced from R29 and R158, log entry 5). -/
def Obligations.ResetLeavesUninit : Prop :=
  State.reset.phase = .uninit ∧ State.reset.err = .clean ∧ State.reset.status = 0b0000#4 ∧
    State.reset.errFlag = false ∧ State.reset.digestValid = false ∧ State.reset.cmdReady = true ∧
    State.reset.digest = none

/-- O2, tier 2 (70_reset_and_hazards.md R155, 70_reset_and_hazards.md R157, 10_state.md R24). For every state
between commands whose next event is a reset, the step answers a next state with PHASE UNINIT, ERRCODE NONE,
status 0b0000, err and digest_valid 0, no digest, the engine ready and the remaining events unchanged. Nothing
is said of LEN, H, BUF and the working registers, which are unspecified. That the engine is ready then is
deduced (R29, R158; log entry 5). -/
def Obligations.ResetEventClears : Prop :=
  ∀ (s : State) (rest : List Input), s.busy = false → s.inputs = .rst :: rest →
    ∃ t, step s = .next t ∧ t.phase = .uninit ∧ t.err = .clean ∧ t.status = 0b0000#4 ∧ t.errFlag = false ∧
      t.digestValid = false ∧ t.digest = none ∧ t.busy = false ∧ t.inputs = rest

/-- O3, tier 1 (30_encoding.md R61, 30_encoding.md R63, 30_encoding.md R64). For every 10-bit word, with op the word
divided by 256 and data its remainder: op 2 decodes as FEED of data; otherwise a data other than 0 is reserved;
otherwise op 0 is NOP, op 1 is INIT and op 3 is FINAL. -/
def Obligations.DecodeFollowsTheFields : Prop :=
  ∀ w : CmdWord,
    (w.toNat / 256 = 2 → decodeCmd w = .ok (.feed (BitVec.ofNat 8 (w.toNat % 256)))) ∧
    (w.toNat / 256 ≠ 2 → w.toNat % 256 ≠ 0 → decodeCmd w = .error (.reserved w)) ∧
    (w.toNat = 0x000 → decodeCmd w = .ok .nop) ∧
    (w.toNat = 0x100 → decodeCmd w = .ok .init) ∧
    (w.toNat = 0x300 → decodeCmd w = .ok .final)

/-- O4, tier 2 (R63, R141). Exactly 765 of the 1024 command words are refused by the decoder, they are the words
with an opcode other than FEED and a non-zero operand, and a step on one, in any phase, answers the state in
which only the event is taken and ERRCODE holds RSVD_ENC if it held NONE. -/
def Obligations.ReservedWordsRaise : Prop :=
  ((List.range 1024).filter fun n => !(CmdWord.legal (BitVec.ofNat 10 n))).length = 765 ∧
  (∀ w : CmdWord, CmdWord.legal w = false ↔ (cmdOp w ≠ 0b10#2 ∧ cmdData w ≠ 0)) ∧
  (∀ w : CmdWord, decodeCmd w = .error (.reserved w) ↔ CmdWord.legal w = false) ∧
  ∀ (s : State) (w : CmdWord) (rest : List Input), CmdWord.legal w = false → s.busy = false →
    s.inputs = .cmd w :: rest →
    step s = .next { s with inputs := rest, err := if s.err = .clean then .rsvdEnc else s.err }

/-- O5, tier 3 (30_encoding.md R61, 30_encoding.md R64, 30_encoding.md R66, 30_encoding.md R67). For every
instruction and every word of either format, the word decodes to the instruction exactly when it is the word the
encoder gives it: every instruction has one word, with FEED at every operand, and no two words have the same
meaning. -/
def Obligations.DecodeAndEncodeAgree : Prop :=
  ∀ (i : Instr) (c : Code), decode c = .ok i ↔ c = encode i

/-- O6, tier 1 (30_encoding.md R61, 30_encoding.md R67). One word per family, written out from the encodings of the
spec, decodes to the instruction it stands for. -/
def Obligations.WrittenOutWordsDecode : Prop :=
  decode (.cmd 0b0000000000#10) = .ok .nop ∧ decode (.cmd 0b0100000000#10) = .ok .init ∧
    decode (.cmd 0b1001100001#10) = .ok (.feed 0x61#8) ∧ decode (.cmd 0b1100000000#10) = .ok .final ∧
    decode (.step 0b001111#6) = .ok .ff15 ∧ decode (.step 0b010000#6) = .ok .gg16 ∧
    decode (.step 0b101010#6) = .ok .hh42 ∧ decode (.step 0b111111#6) = .ok .ii63

/-- O7, tier 1 (40_commands.md R75, 10_state.md R29). For every state between commands whose next event is a command
word that decodes to an instruction, the step is exec of that instruction on the state with the event taken. -/
def Obligations.StepRunsTheCommand : Prop :=
  ∀ (s : State) (w : CmdWord) (rest : List Input) (i : Instr), s.busy = false → s.inputs = .cmd w :: rest →
    decodeCmd w = .ok i → step s = exec i { s with inputs := rest }

/-- O8, tier 1 (10_state.md R31, 41_compression.md R93, 41_compression.md R106). For every state inside a
compression, the step runs exec of the row its step index selects; after a row other than the last the index
goes up by one and the compression goes on; after row 63 the working registers are added into the accumulators
and the engine is ready, with LEN, BUF, PHASE, ERRCODE and the events unchanged. That the engine is ready after
row 63 is the choice of the model (DESIGN CHOICE, log entry 5): the step level shows one compression by itself,
and by R29 cmd_ready would stay 0 to the end of the command around it. -/
def Obligations.StepRunsTheStepOperation : Prop :=
  ∀ s : State, s.busy = true → ∃ u, exec (decodeStep s.t) s = .next u ∧
    (s.t ≠ 63 → step s = .next { u with t := s.t + 1 }) ∧
    (s.t = 63 → ∃ t, step s = .next t ∧ t.h.h0 = s.h.h0 + u.work.a ∧ t.h.h1 = s.h.h1 + u.work.b ∧
      t.h.h2 = s.h.h2 + u.work.c ∧ t.h.h3 = s.h.h3 + u.work.d ∧ t.busy = false ∧ t.len = s.len ∧
      t.buf = s.buf ∧ t.phase = s.phase ∧ t.err = s.err ∧ t.inputs = s.inputs)

/-- O9, tier 1 (60_exceptions.md R153). For every state between commands with no event pending, the step answers the
same state. -/
def Obligations.IdleEngineHolds : Prop :=
  ∀ s : State, s.busy = false → s.inputs = [] → step s = .next s

/-- O10, tier 2 (40_commands.md R87, 60_exceptions.md R135). For every state and every instruction exec answers a
next state, and for every state the step answers a next state: no fault and no refusal; and a command word,
whichever of the 1024 it is, is taken from the events by one step. -/
def Obligations.EveryStepAnswers : Prop :=
  (∀ (i : Instr) (s : State), ∃ t, exec i s = .next t) ∧ (∀ s : State, ∃ t, step s = .next t) ∧
    ∀ (s : State) (w : CmdWord) (rest : List Input), s.busy = false → s.inputs = .cmd w :: rest →
      ∃ t, step s = .next t ∧ t.inputs = rest

/-- O11, tier 2 (R76). NOP is the word 0x000; it answers the identical state in every phase; and taking a NOP out of
any sequence of instructions leaves its outcome the same. -/
def Obligations.NopChangesNothing : Prop :=
  decodeCmd 0x000#10 = .ok .nop ∧ (∀ s : State, exec .nop s = .next s) ∧
    ∀ (pre post : List Instr) (s : State), execAll (pre ++ .nop :: post) s = execAll (pre ++ post) s

/-- O12, tier 2 (R77). INIT is the word 0x100; in every state it answers the state with LEN 0, H the four initial
constants, every byte of BUF 0x00 and PHASE ACCUM, every other field (ERRCODE among them) unchanged, so that
digest_valid is 0; from any two states it gives the same LEN, H, BUF and PHASE; and two in a row equal one. -/
def Obligations.InitStartsAMessage : Prop :=
  decodeCmd 0x100#10 = .ok .init ∧
  (∀ s : State, ∃ t, exec .init s = .next t ∧
    t = { s with
      len := 0
      h := ⟨0x67452301#32, 0xefcdab89#32, 0x98badcfe#32, 0x10325476#32⟩
      buf := t.buf
      phase := .accum } ∧
    t.buf.wf = true ∧ (∀ a, t.buf.read a = 0x00#8) ∧ t.digestValid = false ∧
    execAll [.init, .init] s = .next t) ∧
  ∀ s u t v : State, exec .init s = .next t → exec .init u = .next v →
    t.len = v.len ∧ t.h = v.h ∧ t.buf = v.buf ∧ t.phase = v.phase

/-- O13, tier 2 (40_commands.md R78, 40_commands.md R80). For every accumulating state with FILL other than 63 and
every byte, FEED answers the state with the byte written to BUF at LEN mod 64 and LEN one higher modulo 2^64,
and every other field unchanged; in a canonical buffer every other byte of BUF reads as before. -/
def Obligations.FeedStoresOneByte : Prop :=
  ∀ (s : State) (v : Byte), s.phase = .accum → s.len.toNat % 64 ≠ 63 →
    exec (.feed v) s = .next { s with
      buf := s.buf.write (s.len.toNat % 64) v
      len := s.len + 1 } ∧
    (s.buf.wf = true → ∀ a, (s.buf.write (s.len.toNat % 64) v).read a =
      if a = s.len.toNat % 64 then v else s.buf.read a)

/-- O14, tier 2 (40_commands.md R78, 40_commands.md R80, 41_compression.md R90, 41_compression.md R91). For every
accumulating state with FILL 63 and every byte, FEED answers a next state whose buffer has the byte at address
63 and, when it was canonical, every other byte as before; whose accumulators are the compression of that buffer
from the old accumulators; LEN is one higher modulo 2^64 and FILL is 0; PHASE, ERRCODE, cmd_ready and the events
are unchanged. Nothing is said of the working registers, which are dead. -/
def Obligations.FeedCompletesTheBlock : Prop :=
  ∀ (s : State) (v : Byte), s.phase = .accum → s.len.toNat % 64 = 63 →
    ∃ t, exec (.feed v) s = .next t ∧ t.buf = s.buf.write 63 v ∧
      (s.buf.wf = true → ∀ a, t.buf.read a = if a = 63 then v else s.buf.read a) ∧
      t.h = compressBlock s.h (msgWord t.buf) ∧ t.len = s.len + 1 ∧ t.fill = 0 ∧ t.phase = .accum ∧
      t.err = s.err ∧ t.busy = s.busy ∧ t.inputs = s.inputs

/-- O15, tier 1 (10_state.md R15, 40_commands.md R80). For every accumulating state with LEN 2^64 - 1, FEED answers
a next state with LEN 0 and ERRCODE unchanged, in which the block has been compressed. -/
def Obligations.CountWrapsSilently : Prop :=
  ∀ (s : State) (v : Byte), s.phase = .accum → s.len.toNat = 2 ^ 64 - 1 →
    ∃ t, exec (.feed v) s = .next t ∧ t.len = 0 ∧ t.err = s.err ∧ t.phase = .accum ∧
      t.h = compressBlock s.h (msgWord (s.buf.write 63 v))

/-- O16, tier 1 (40_commands.md R75, 60_exceptions.md R138, 60_exceptions.md R137). In UNINIT every FEED and FINAL
answers the state in which only ERRCODE changes, to SEQ_UNINIT if it held NONE; in DONE likewise to SEQ_DONE. -/
def Obligations.FeedAndFinalNeedAccum : Prop :=
  ∀ (s : State) (i : Instr), (i = .final ∨ ∃ v, i = .feed v) →
    (s.phase = .uninit → exec i s = .next { s with err := if s.err = .clean then .seqUninit else s.err }) ∧
    (s.phase = .done → exec i s = .next { s with err := if s.err = .clean then .seqDone else s.err })

/-- O17, tier 2 (42_padding_finalization.md R120, 42_padding_finalization.md R122, 42_padding_finalization.md R123,
42_padding_finalization.md R124, 42_padding_finalization.md R125, 40_commands.md R83). For every accumulating
state with a canonical buffer and FILL at most 55, FINAL answers a next state in which H is the compression,
from the old H, of the block made of the valid bytes, 0x80, 55 - FILL zeros and the bit length; the buffer stays
canonical, PHASE is DONE, and ERRCODE, cmd_ready and the events are unchanged. Nothing is said of LEN, of the
bytes of BUF (R131: unobservable in DONE) and of the working registers. -/
def Obligations.FinalOfAShortTail : Prop :=
  ∀ s : State, s.phase = .accum → s.buf.wf = true → s.fill.toNat ≤ 55 →
    ∃ t, exec .final s = .next t ∧ t.h = compressBlock s.h (blockWord (shortBlock s)) ∧ t.buf.wf = true ∧
      t.phase = .done ∧ t.err = s.err ∧ t.busy = s.busy ∧ t.inputs = s.inputs

/-- O18, tier 2 (42_padding_finalization.md R120, 42_padding_finalization.md R122, 42_padding_finalization.md R123,
42_padding_finalization.md R124, 42_padding_finalization.md R125, 40_commands.md R83). For every accumulating
state with a canonical buffer and FILL at least 56, FINAL answers a next state in which H is the compression of
two blocks from the old H, first the valid bytes, 0x80 and zeros, then 56 zeros and the bit length; the buffer
stays canonical, PHASE is DONE, and ERRCODE, cmd_ready and the events are unchanged. Nothing is said of LEN, of
the bytes of BUF (R131: unobservable in DONE) and of the working registers. -/
def Obligations.FinalOfALongTail : Prop :=
  ∀ s : State, s.phase = .accum → s.buf.wf = true → 56 ≤ s.fill.toNat →
    ∃ t, exec .final s = .next t ∧
      t.h = compressBlock (compressBlock s.h (blockWord (longBlock s))) (blockWord (lengthBlock s)) ∧
      t.buf.wf = true ∧ t.phase = .done ∧ t.err = s.err ∧ t.busy = s.busy ∧ t.inputs = s.inputs

/-- O19, tier 2 (42_padding_finalization.md R120, 42_padding_finalization.md R126). For every state with a canonical
buffer the padding absorbed byte by byte and the padding written block by block leave the same accumulators. -/
def Obligations.BlockwisePaddingIsTheSame : Prop :=
  ∀ s : State, s.buf.wf = true → s.pad.h = s.padBuffer.h

/-- O20, tier 2 (42_padding_finalization.md R121, 42_padding_finalization.md R124, 42_padding_finalization.md R125,
20_memory.md R45). For every accumulating state with a canonical buffer FINAL answers a next state in which H is
the compression of a last block, from the old H if FILL is at most 55 and otherwise from the compression of the
first block, and byte 56 + k of that last block is byte k of (LEN << 3) mod 2^64 taken before the padding, so
that its message words 14 and 15 are the low and the high half. -/
def Obligations.LengthFieldEndsTheBlock : Prop :=
  ∀ s : State, s.phase = .accum → s.buf.wf = true →
    let last := if s.fill.toNat ≤ 55 then shortBlock s else lengthBlock s
    (∃ t, exec .final s = .next t ∧
      t.h = compressBlock (if s.fill.toNat ≤ 55 then s.h else compressBlock s.h (blockWord (longBlock s)))
        (blockWord last)) ∧
    last.length = 64 ∧
    (∀ k, k < 8 → (last.getD (56 + k) 0).toNat = s.len.toNat * 8 % 2 ^ 64 / 256 ^ k % 256) ∧
    (blockWord last 14).toNat = s.len.toNat * 8 % 2 ^ 64 % 2 ^ 32 ∧
    (blockWord last 15).toNat = s.len.toNat * 8 % 2 ^ 64 / 2 ^ 32

/-- O21, tier 2 (R140). For every state with an ERRCODE other than NONE that is inside a compression or whose next
event is not a reset, the step leaves ERRCODE as it is; a reset event between commands sets it to NONE. -/
def Obligations.ErrorCodeIsSticky : Prop :=
  (∀ s t : State, step s = .next t → s.err ≠ .clean → (s.busy = true ∨ s.inputs.head? ≠ some .rst) →
    t.err = s.err) ∧
  ∀ s t : State, step s = .next t → s.busy = false → s.inputs.head? = some .rst → t.err = .clean

/-- O22, tier 2 (60_exceptions.md R137, 60_exceptions.md R139, 60_exceptions.md R140). For every instruction and
state: if ERRCODE changes, it held NONE, the instruction is FEED or FINAL, the code is SEQ_UNINIT in UNINIT or
SEQ_DONE in DONE, and every other field of the state is unchanged. -/
def Obligations.AnErrorDropsTheCommand : Prop :=
  ∀ (i : Instr) (s t : State), exec i s = .next t → t.err ≠ s.err →
    s.err = .clean ∧ t = { s with err := t.err } ∧ (i = .final ∨ ∃ v, i = .feed v) ∧
      ((s.phase = .uninit ∧ t.err = .seqUninit) ∨ (s.phase = .done ∧ t.err = .seqDone))

/-- O23, tier 2 (R23). For every instruction and state: INIT leads to ACCUM from every phase, FINAL leads from ACCUM
to DONE, and every other instruction in every phase, FEED and FINAL outside ACCUM among them, leaves PHASE as it
was; between commands a reset event leads to UNINIT from every phase, and a reserved word leaves PHASE as it
was. -/
def Obligations.PhaseFollowsTheLifecycle : Prop :=
  (∀ (i : Instr) (s t : State), exec i s = .next t → PhaseMay i s.phase t.phase) ∧
  (∀ (s t : State) (rest : List Input), s.busy = false → s.inputs = .rst :: rest → step s = .next t →
    t.phase = .uninit) ∧
  ∀ (s t : State) (w : CmdWord) (rest : List Input), s.busy = false → s.inputs = .cmd w :: rest →
    CmdWord.legal w = false → step s = .next t → t.phase = s.phase

/-- O24, tier 1 (41_compression.md R107, 41_compression.md R104, 41_compression.md R96). For every state each of
FF00, FF01, FF02, FF03, FF04, FF05, FF06, FF07, FF08, FF09, FF10, FF11, FF12, FF13, FF14, FF15 answers the state
in which (a,b,c,d) is (d, b + rotl32(x, S), b, c), with x the sum of a, the nonlinear function of (b,c,d), its
message word and its constant, and every other field unchanged; g, S and K are the row's literals. -/
def Obligations.FFRowsCompute : Prop :=
  ∀ s : State,
    let row : BitVec 4 → Nat → Word → Host.Outcome State Fault Refusal := fun g r k =>
      let x := s.work.a + ((s.work.b &&& s.work.c) ||| (~~~s.work.b &&& s.work.d)) + msgWord s.buf g + k
      .next { s with work := ⟨s.work.d, s.work.b + ((x <<< r) ||| (x >>> (32 - r))), s.work.b, s.work.c⟩ }
    exec .ff00 s = row 0 7 0xd76aa478#32 ∧
    exec .ff01 s = row 1 12 0xe8c7b756#32 ∧
    exec .ff02 s = row 2 17 0x242070db#32 ∧
    exec .ff03 s = row 3 22 0xc1bdceee#32 ∧
    exec .ff04 s = row 4 7 0xf57c0faf#32 ∧
    exec .ff05 s = row 5 12 0x4787c62a#32 ∧
    exec .ff06 s = row 6 17 0xa8304613#32 ∧
    exec .ff07 s = row 7 22 0xfd469501#32 ∧
    exec .ff08 s = row 8 7 0x698098d8#32 ∧
    exec .ff09 s = row 9 12 0x8b44f7af#32 ∧
    exec .ff10 s = row 10 17 0xffff5bb1#32 ∧
    exec .ff11 s = row 11 22 0x895cd7be#32 ∧
    exec .ff12 s = row 12 7 0x6b901122#32 ∧
    exec .ff13 s = row 13 12 0xfd987193#32 ∧
    exec .ff14 s = row 14 17 0xa679438e#32 ∧
    exec .ff15 s = row 15 22 0x49b40821#32

/-- O25, tier 1 (41_compression.md R108, 41_compression.md R104, 41_compression.md R96). For every state each of
GG16, GG17, GG18, GG19, GG20, GG21, GG22, GG23, GG24, GG25, GG26, GG27, GG28, GG29, GG30, GG31 answers the state
in which (a,b,c,d) is (d, b + rotl32(x, S), b, c), with x the sum of a, the nonlinear function of (b,c,d), its
message word and its constant, and every other field unchanged; g, S and K are the row's literals. -/
def Obligations.GGRowsCompute : Prop :=
  ∀ s : State,
    let row : BitVec 4 → Nat → Word → Host.Outcome State Fault Refusal := fun g r k =>
      let x := s.work.a + ((s.work.b &&& s.work.d) ||| (s.work.c &&& ~~~s.work.d)) + msgWord s.buf g + k
      .next { s with work := ⟨s.work.d, s.work.b + ((x <<< r) ||| (x >>> (32 - r))), s.work.b, s.work.c⟩ }
    exec .gg16 s = row 1 5 0xf61e2562#32 ∧
    exec .gg17 s = row 6 9 0xc040b340#32 ∧
    exec .gg18 s = row 11 14 0x265e5a51#32 ∧
    exec .gg19 s = row 0 20 0xe9b6c7aa#32 ∧
    exec .gg20 s = row 5 5 0xd62f105d#32 ∧
    exec .gg21 s = row 10 9 0x02441453#32 ∧
    exec .gg22 s = row 15 14 0xd8a1e681#32 ∧
    exec .gg23 s = row 4 20 0xe7d3fbc8#32 ∧
    exec .gg24 s = row 9 5 0x21e1cde6#32 ∧
    exec .gg25 s = row 14 9 0xc33707d6#32 ∧
    exec .gg26 s = row 3 14 0xf4d50d87#32 ∧
    exec .gg27 s = row 8 20 0x455a14ed#32 ∧
    exec .gg28 s = row 13 5 0xa9e3e905#32 ∧
    exec .gg29 s = row 2 9 0xfcefa3f8#32 ∧
    exec .gg30 s = row 7 14 0x676f02d9#32 ∧
    exec .gg31 s = row 12 20 0x8d2a4c8a#32

/-- O26, tier 1 (41_compression.md R109, 41_compression.md R104, 41_compression.md R96). For every state each of
HH32, HH33, HH34, HH35, HH36, HH37, HH38, HH39, HH40, HH41, HH42, HH43, HH44, HH45, HH46, HH47 answers the state
in which (a,b,c,d) is (d, b + rotl32(x, S), b, c), with x the sum of a, the nonlinear function of (b,c,d), its
message word and its constant, and every other field unchanged; g, S and K are the row's literals. -/
def Obligations.HHRowsCompute : Prop :=
  ∀ s : State,
    let row : BitVec 4 → Nat → Word → Host.Outcome State Fault Refusal := fun g r k =>
      let x := s.work.a + (s.work.b ^^^ s.work.c ^^^ s.work.d) + msgWord s.buf g + k
      .next { s with work := ⟨s.work.d, s.work.b + ((x <<< r) ||| (x >>> (32 - r))), s.work.b, s.work.c⟩ }
    exec .hh32 s = row 5 4 0xfffa3942#32 ∧
    exec .hh33 s = row 8 11 0x8771f681#32 ∧
    exec .hh34 s = row 11 16 0x6d9d6122#32 ∧
    exec .hh35 s = row 14 23 0xfde5380c#32 ∧
    exec .hh36 s = row 1 4 0xa4beea44#32 ∧
    exec .hh37 s = row 4 11 0x4bdecfa9#32 ∧
    exec .hh38 s = row 7 16 0xf6bb4b60#32 ∧
    exec .hh39 s = row 10 23 0xbebfbc70#32 ∧
    exec .hh40 s = row 13 4 0x289b7ec6#32 ∧
    exec .hh41 s = row 0 11 0xeaa127fa#32 ∧
    exec .hh42 s = row 3 16 0xd4ef3085#32 ∧
    exec .hh43 s = row 6 23 0x04881d05#32 ∧
    exec .hh44 s = row 9 4 0xd9d4d039#32 ∧
    exec .hh45 s = row 12 11 0xe6db99e5#32 ∧
    exec .hh46 s = row 15 16 0x1fa27cf8#32 ∧
    exec .hh47 s = row 2 23 0xc4ac5665#32

/-- O27, tier 1 (41_compression.md R110, 41_compression.md R104, 41_compression.md R96). For every state each of
II48, II49, II50, II51, II52, II53, II54, II55, II56, II57, II58, II59, II60, II61, II62, II63 answers the state
in which (a,b,c,d) is (d, b + rotl32(x, S), b, c), with x the sum of a, the nonlinear function of (b,c,d), its
message word and its constant, and every other field unchanged; g, S and K are the row's literals. -/
def Obligations.IIRowsCompute : Prop :=
  ∀ s : State,
    let row : BitVec 4 → Nat → Word → Host.Outcome State Fault Refusal := fun g r k =>
      let x := s.work.a + (s.work.c ^^^ (s.work.b ||| ~~~s.work.d)) + msgWord s.buf g + k
      .next { s with work := ⟨s.work.d, s.work.b + ((x <<< r) ||| (x >>> (32 - r))), s.work.b, s.work.c⟩ }
    exec .ii48 s = row 0 6 0xf4292244#32 ∧
    exec .ii49 s = row 7 10 0x432aff97#32 ∧
    exec .ii50 s = row 14 15 0xab9423a7#32 ∧
    exec .ii51 s = row 5 21 0xfc93a039#32 ∧
    exec .ii52 s = row 12 6 0x655b59c3#32 ∧
    exec .ii53 s = row 3 10 0x8f0ccc92#32 ∧
    exec .ii54 s = row 10 15 0xffeff47d#32 ∧
    exec .ii55 s = row 1 21 0x85845dd1#32 ∧
    exec .ii56 s = row 8 6 0x6fa87e4f#32 ∧
    exec .ii57 s = row 15 10 0xfe2ce6e0#32 ∧
    exec .ii58 s = row 6 15 0xa3014314#32 ∧
    exec .ii59 s = row 13 21 0x4e0811a1#32 ∧
    exec .ii60 s = row 4 6 0xf7537e82#32 ∧
    exec .ii61 s = row 11 10 0xbd3af235#32 ∧
    exec .ii62 s = row 2 15 0x2ad7d2bb#32 ∧
    exec .ii63 s = row 9 21 0xeb86d391#32

/-- O28, tier 2 (41_compression.md R94, 41_compression.md R96, 41_compression.md R101, 41_compression.md R102,
41_compression.md R103, 41_compression.md R104). For every step index and state, the row it selects answers the
state in which the working registers are the step operation of R96 with the function, message word, constant and
rotation amount that the formula of g, the table of S, the list of K and the round give for that index, every
other field unchanged. -/
def Obligations.RowsFollowTheTables : Prop :=
  ∀ (t : StepIndex) (s : State),
    exec (decodeStep t) s = .next { s with work := stepAt (msgWord s.buf) t s.work }

/-- O29, tier 2 (R96). For every step index t and state, with f the function of the round, x the sum modulo 2^32 of
a, f(b,c,d), M[g(t)] and K[t]: after the row t selects, a holds the old d, b the old b plus x rotated left by
S[t], c the old b, d the old c, and no field other than the working registers has changed. -/
def Obligations.RegistersMoveAtOnce : Prop :=
  ∀ (t : StepIndex) (s : State), ∃ u, exec (decodeStep t) s = .next u ∧ u = { s with work := u.work } ∧
    u.work.a = s.work.d ∧ u.work.c = s.work.b ∧ u.work.d = s.work.c ∧
    let f := if t.toNat < 16 then fF else if t.toNat < 32 then fG else if t.toNat < 48 then fH else fI
    let x := s.work.a + f s.work.b s.work.c s.work.d + msgWord s.buf (msgIndex t) + addConst t
    u.work.b = s.work.b + ((x <<< rotAmount t) ||| (x >>> (32 - rotAmount t)))

/-- O30, tier 2 (R97, R98, R99, R100). fF selects the bit of y or z by x, fG the bit of x or y by z, fH is the
parity, fI is y xor (x or not z); the equivalent forms hold; and the round of a step index selects fF for 0 to
15, fG for 16 to 31, fH for 32 to 47 and fI for 48 to 63. -/
def Obligations.NonlinearFunctionsBitwise : Prop :=
  (∀ (x y z : Word) (i : Nat), i < 32 →
    (fF x y z).getLsbD i = (if x.getLsbD i then y.getLsbD i else z.getLsbD i) ∧
    (fG x y z).getLsbD i = (if z.getLsbD i then x.getLsbD i else y.getLsbD i) ∧
    (fH x y z).getLsbD i = ((x.getLsbD i ^^ y.getLsbD i) ^^ z.getLsbD i) ∧
    (fI x y z).getLsbD i = (y.getLsbD i ^^ (x.getLsbD i || !z.getLsbD i))) ∧
  (∀ x y z : Word, fF x y z = z ^^^ (x &&& (y ^^^ z)) ∧ fG x y z = y ^^^ (z &&& (x ^^^ y)) ∧
    fG x y z = fF z x y) ∧
  fF 0 0 0 = 0 ∧ fG 0 0 0 = 0 ∧ fH 0 0 0 = 0 ∧ fI 0 0 0 = 0xFFFFFFFF#32 ∧
  ∀ t : StepIndex, (t.toNat < 16 → roundFn (roundOf t) = fF) ∧
    (16 ≤ t.toNat → t.toNat < 32 → roundFn (roundOf t) = fG) ∧
    (32 ≤ t.toNat → t.toNat < 48 → roundFn (roundOf t) = fH) ∧
    (48 ≤ t.toNat → roundFn (roundOf t) = fI)

/-- O31, tier 2 (00_scope.md R8, 41_compression.md R103). For every amount from 1 to 31 bit i of the rotated word is
bit (i + 32 - n) mod 32 of the word, and every rotation amount of the engine lies between 4 and 23. -/
def Obligations.RotationIsCyclic : Prop :=
  (∀ (x : Word) (n i : Nat), 1 ≤ n → n ≤ 31 → i < 32 →
    (rotl32 x n).getLsbD i = x.getLsbD ((i + 32 - n) % 32)) ∧
  ∀ t : StepIndex, 4 ≤ rotAmount t ∧ rotAmount t ≤ 23

/-- O32, tier 2 (20_memory.md R43, 20_memory.md R45, 41_compression.md R95). For every canonical buffer: word j is
the sum of BUF[4j + k] times 256^k; and a byte written at 4j + k appears as bits 8k+7:8k of word j, the other
bytes of word j and every other word as before. -/
def Obligations.MessageWordsAreLittleEndian : Prop :=
  ∀ (m : Memory), m.wf = true → ∀ (j : BitVec 4),
    (msgWord m j).toNat = (m.read (4 * j.toNat)).toNat + 2 ^ 8 * (m.read (4 * j.toNat + 1)).toNat +
      2 ^ 16 * (m.read (4 * j.toNat + 2)).toNat + 2 ^ 24 * (m.read (4 * j.toNat + 3)).toNat ∧
    ∀ (k l : Nat) (v : Byte), k < 4 → l < 4 →
      (msgWord (m.write (4 * j.toNat + k) v) j).extractLsb' (8 * l) 8 =
        (if l = k then v else (msgWord m j).extractLsb' (8 * l) 8) ∧
      ∀ i : BitVec 4, i ≠ j → msgWord (m.write (4 * j.toNat + k) v) i = msgWord m i

/-- O33, tier 3 (20_memory.md R40, 20_memory.md R47, 20_memory.md R49). For every state whose buffer is canonical
(addresses rising, below 64, no cell that holds what an unlisted address reads as), if the step answers a next
state, that state's buffer is canonical. -/
def Obligations.BufferStaysCanonical : Prop :=
  ∀ s t : State, CanonicalBuffer s → step s = .next t → CanonicalBuffer t

/-- O34, tier 1 (70_reset_and_hazards.md R155, 20_memory.md R40). The invariant of the buffer holds at State.reset;
that the buffer then lists nothing is the model's choice (log entries 1 and 2). -/
def Obligations.ResetBufferIsCanonical : Prop :=
  CanonicalBuffer State.reset

/-- O35, tier 2 (20_memory.md R53, 10_state.md R29, 10_state.md R36). For every state between commands, if the step
answers a next state, that state is between commands too; and no instruction changes whether a compression is in
progress. The field that says so, busy, is the choice of the model (DESIGN CHOICE, log entry 5). -/
def Obligations.CommandsLeaveTheEngineReady : Prop :=
  (∀ s t : State, Ready s → step s = .next t → Ready t) ∧
    ∀ (i : Instr) (s t : State), exec i s = .next t → t.busy = s.busy

/-- O36, tier 2 (20_memory.md R52, 10_state.md R17, 60_exceptions.md R137). For every instruction other than INIT,
FEED and FINAL the complete state of R13 (LEN, H, BUF, PHASE, ERRCODE) and the events are unchanged; FEED and
FINAL outside ACCUM leave LEN, H, BUF and PHASE unchanged. -/
def Obligations.OnlyThreeCommandsChangeTheData : Prop :=
  (∀ (i : Instr) (s t : State), exec i s = .next t → i ≠ .init → i ≠ .final → (∀ v, i ≠ .feed v) →
    core t = core s ∧ t.inputs = s.inputs) ∧
  ∀ (i : Instr) (s t : State), exec i s = .next t → i ≠ .init → s.phase ≠ .accum →
    t.len = s.len ∧ t.h = s.h ∧ t.buf = s.buf ∧ t.phase = s.phase

/-- O37, tier 3 (00_scope.md R11, 41_compression.md R90, 41_compression.md R92, 41_compression.md R93,
41_compression.md R106). For every state, from the state in which the working registers are loaded from H and
the step index is 0, sixty-four steps of the machine answer a state between commands in which H is the
compression of the buffer from the old H and LEN, BUF, PHASE, ERRCODE and the events are unchanged. That the
sixty-four steps end between commands (the engine ready) is the choice of the model (DESIGN CHOICE, log entry
5): by R29 a command that runs this compression may still be in progress. -/
def Obligations.SixtyFourStepsAreOneCompression : Prop :=
  ∀ s : State, ∃ t, Host.Core.run Sys2Proof.core 64 s.startCompression = .next t ∧
    t.h = compressBlock s.h (msgWord s.buf) ∧ t.busy = false ∧ t.len = s.len ∧ t.buf = s.buf ∧
    t.phase = s.phase ∧ t.err = s.err ∧ t.inputs = s.inputs

/-- O38, tier 3 (R19, R20). INIT in any state leads to a state that has accumulated the empty message; FEED in a
state that has accumulated a message leads to one that has accumulated that message and the byte: the count is
the length modulo 2^64, H is the compression of the complete blocks from IV, and BUF below FILL holds the last
FILL bytes; and every instruction other than INIT, FEED and FINAL keeps what has been accumulated. -/
def Obligations.AccumulatingInvariants : Prop :=
  (∀ s : State, ∃ t, exec .init s = .next t ∧ Accumulated [] t) ∧
    (∀ (msg : List Byte) (s : State) (v : Byte), Accumulated msg s →
      ∃ t, exec (.feed v) s = .next t ∧ Accumulated (msg ++ [v]) t) ∧
    ∀ (i : Instr) (msg : List Byte) (s t : State), i ≠ .init → i ≠ .final → (∀ v, i ≠ .feed v) →
      Accumulated msg s → exec i s = .next t → Accumulated msg t

/-- O39, tier 3 (R134). For every byte sequence and every state, INIT, one FEED per byte and FINAL answer a state in
DONE whose digest port shows the digest of the padded message as the closed form gives it, with ERRCODE as
before. -/
def Obligations.DigestIsAFunctionOfTheMessage : Prop :=
  ∀ (msg : List Byte) (s : State), ∃ t,
    execAll ([.init] ++ msg.map .feed ++ [.final]) s = .next t ∧ t.phase = .done ∧ t.err = s.err ∧
      t.digest = some (digestOf msg).digestBits

/-- O40, tier 2 (40_commands.md R81, 40_commands.md R82, 40_commands.md R76). For every message, every sequence of
FEEDs and NOPs whose FEEDs are the bytes of the message has the same outcome between INIT and FINAL, and feeding
a concatenation is feeding its parts one after the other. -/
def Obligations.ChunkingDoesNotMatter : Prop :=
  (∀ (msg : List Byte) (cmds : List Instr) (s : State), cmds.filter (· ≠ .nop) = msg.map .feed →
    execAll ([.init] ++ cmds ++ [.final]) s = execAll ([.init] ++ msg.map .feed ++ [.final]) s) ∧
  ∀ (a b : List Byte) (s t : State), execAll (a.map .feed) s = .next t →
    execAll ((a ++ b).map .feed) s = execAll (b.map .feed) t

/-- O41, tier 3 (10_state.md R37, 10_state.md R38, 93_implementation_defined.md U7). For every two states with
canonical buffers, between commands, that agree on PHASE, ERRCODE, H, LEN and the valid bytes of BUF, every
instruction answers in both, the two next states agree again and show the same outputs: the stale bytes and the
dead registers have no influence. -/
def Obligations.StaleBytesAreNeverRead : Prop :=
  ∀ (i : Instr) (s t : State), Agree s t → s.buf.wf = true → t.buf.wf = true →
    ∃ s' t', exec i s = .next s' ∧ exec i t = .next t' ∧ Agree s' t' ∧ s'.sample = t'.sample

/-- O42, tier 2 (42_padding_finalization.md R129, 42_padding_finalization.md R131, 10_state.md R28). For every state
in DONE every instruction other than INIT leaves PHASE in DONE and the digest port as it is. -/
def Obligations.DigestHeldWhileDone : Prop :=
  ∀ (i : Instr) (s t : State), s.phase = .done → i ≠ .init → exec i s = .next t →
    t.phase = .done ∧ t.digest = s.digest

/-- O43, tier 2 (R128, 93_implementation_defined.md U4). In DONE the digest port has a value whose byte 4i + k is
bits 8k+7:8k of H[i], that is H[0] in bits 31:0 up to H[3] in bits 127:96, and whose bytes are LE32 of the four
accumulators concatenated; in every other phase a read of it has no value. -/
def Obligations.DigestIsLittleEndianSerialization : Prop :=
  ∀ s : State, (s.phase ≠ .done → s.digest = none) ∧
    (s.phase = .done → ∃ d, s.digest = some d ∧
      d.extractLsb' 0 32 = s.h.h0 ∧ d.extractLsb' 32 32 = s.h.h1 ∧ d.extractLsb' 64 32 = s.h.h2 ∧
      d.extractLsb' 96 32 = s.h.h3 ∧
      ∀ k, k < 16 → d.extractLsb' (8 * k) 8 = s.h.digestBytes.getD k 0)

/-- O44, tier 1 (10_state.md R25, 10_state.md R27, 60_exceptions.md R138, 40_commands.md R84). Bits 1:0 of status
are 0, 1, 2 in UNINIT, ACCUM, DONE, bits 3:2 are 0, 1, 2, 3 for NONE, SEQ_UNINIT, SEQ_DONE, RSVD_ENC; err is 1
exactly when ERRCODE is not 0, digest_valid exactly in DONE; and a sample of the outputs has a value exactly
when the engine is not busy. That a sample while busy has no value is the choice of the model (DEDUCED, log
entry 8, with the busy of log entry 5): R84 calls the outputs unspecified then and gives a model no such moment. -/
def Obligations.StatusShowsTheRegisters : Prop :=
  ∀ s : State,
    (s.status.extractLsb' 0 2 = match s.phase with
      | .uninit => 0#2
      | .accum => 1#2
      | .done => 2#2) ∧
    (s.status.extractLsb' 2 2 = match s.err with
      | .clean => 0#2
      | .seqUninit => 1#2
      | .seqDone => 2#2
      | .rsvdEnc => 3#2) ∧
    (s.errFlag = true ↔ s.status.extractLsb' 2 2 ≠ 0) ∧
    (s.digestValid = true ↔ s.status.extractLsb' 0 2 = 2) ∧
    (s.sample.isSome = true ↔ s.busy = false)

/-- O45, tier 2 (41_compression.md R90, 41_compression.md R112, 41_compression.md R113). For every two accumulating
states with canonical buffers, FILL 63, equal accumulators and equal bytes of BUF below 63, the same FEED leads
to equal accumulators, whatever their LEN, ERRCODE and working registers. -/
def Obligations.CompressionDependsOnHAndBufOnly : Prop :=
  ∀ (s t : State) (v : Byte), s.phase = .accum → t.phase = .accum → s.buf.wf = true → t.buf.wf = true →
    s.len.toNat % 64 = 63 → t.len.toNat % 64 = 63 → s.h = t.h → (∀ a, a < 63 → s.buf.read a = t.buf.read a) →
    ∃ s' t', exec (.feed v) s = .next s' ∧ exec (.feed v) t = .next t' ∧ s'.h = t'.h ∧
      s'.h = compressBlock s.h (msgWord s'.buf)

/-- O46, tier 1 (42_padding_finalization.md R133, 30_encoding.md R70). From State.reset, INIT and FINAL give the
digest d41d8cd98f00b204e9800998ecf8427e, and INIT, FEED of a, b, c and FINAL give
900150983cd24fb0d6963f7d28e17f72, with the accumulators R133 lists. -/
def Obligations.SourceDigests : Prop :=
  (∃ t, execAll [.init, .final] State.reset = .next t ∧ t.phase = .done ∧
    t.h = ⟨0xd98c1dd4#32, 0x04b2008f#32, 0x980980e9#32, 0x7e42f8ec#32⟩ ∧
    t.h.digestBytes = [0xd4#8, 0x1d#8, 0x8c#8, 0xd9#8, 0x8f#8, 0x00#8, 0xb2#8, 0x04#8, 0xe9#8, 0x80#8, 0x09#8,
      0x98#8, 0xec#8, 0xf8#8, 0x42#8, 0x7e#8]) ∧
  ∃ t, execAll [.init, .feed 0x61#8, .feed 0x62#8, .feed 0x63#8, .final] State.reset = .next t ∧
    t.phase = .done ∧ t.h = ⟨0x98500190#32, 0xb04fd23c#32, 0x7d3f96d6#32, 0x727fe128#32⟩ ∧
    t.h.digestBytes = [0x90#8, 0x01#8, 0x50#8, 0x98#8, 0x3c#8, 0xd2#8, 0x4f#8, 0xb0#8, 0xd6#8, 0x96#8, 0x3f#8,
      0x7d#8, 0x28#8, 0xe1#8, 0x7f#8, 0x72#8]
end

