-- ==== Sys2Proof/Laws/Memory.lean ====
section
/-! SUPPORT. The laws of the block buffer: what a read gives after a write, that every memory operation keeps the
canonical form, and that two canonical buffers that read alike are equal. -/

namespace Sys2Proof.Machine

theorem Memory.read_nil (a : Nat) : Memory.read [] a = Memory.unlisted := rfl

theorem Memory.read_cons (k : Nat) (v : Byte) (rest : Memory) (a : Nat) :
    Memory.read ((k, v) :: rest) a = if k = a then v else Memory.read rest a := rfl

theorem Memory.wfFrom_cons {lo k : Nat} {v : Byte} {rest : Memory} :
    Memory.wfFrom lo ((k, v) :: rest) = true ↔
      lo ≤ k ∧ k < 64 ∧ v ≠ Memory.unlisted ∧ Memory.wfFrom (k + 1) rest = true := by
  simp [Memory.wfFrom, and_assoc]

theorem Memory.wfFrom_mono {lo lo' : Nat} (h : lo' ≤ lo) :
    ∀ {m : Memory}, Memory.wfFrom lo m = true → Memory.wfFrom lo' m = true
  | [], _ => rfl
  | (k, v) :: rest, hw => by
    rw [Memory.wfFrom_cons] at hw ⊢
    exact ⟨h.trans hw.1, hw.2⟩

/-- Below its first address a canonical buffer lists nothing. -/
theorem Memory.read_below {lo a : Nat} (ha : a < lo) :
    ∀ {m : Memory}, Memory.wfFrom lo m = true → m.read a = Memory.unlisted
  | [], _ => rfl
  | (k, v) :: rest, hw => by
    obtain ⟨h1, -, -, h4⟩ := Memory.wfFrom_cons.1 hw
    rw [Memory.read_cons, if_neg (by omega)]
    exact Memory.read_below (by omega) h4

/-- Above the buffer a canonical buffer lists nothing. -/
theorem Memory.read_above {lo a : Nat} (ha : 64 ≤ a) :
    ∀ {m : Memory}, Memory.wfFrom lo m = true → m.read a = Memory.unlisted
  | [], _ => rfl
  | (k, v) :: rest, hw => by
    obtain ⟨-, h2, -, h4⟩ := Memory.wfFrom_cons.1 hw
    rw [Memory.read_cons, if_neg (by omega)]
    exact Memory.read_above ha h4

theorem Memory.read_put {a b : Nat} {v : Byte} {rest : Memory}
    (hr : rest.read a = Memory.unlisted) :
    (Memory.put a v rest).read b = if b = a then v else rest.read b := by
  unfold Memory.put
  by_cases hv : v = Memory.unlisted
  · by_cases hb : b = a <;> simp_all
  · rw [if_neg hv, Memory.read_cons]
    by_cases hb : b = a
    · simp [hb]
    · rw [if_neg (fun h => hb h.symm), if_neg hb]

theorem Memory.wfFrom_put {lo a : Nat} {v : Byte} {rest : Memory} (hlo : lo ≤ a) (ha : a < 64)
    (hr : Memory.wfFrom (a + 1) rest = true) : Memory.wfFrom lo (Memory.put a v rest) = true := by
  unfold Memory.put
  by_cases hv : v = Memory.unlisted
  · rw [if_pos hv]
    exact Memory.wfFrom_mono (by omega) hr
  · rw [if_neg hv, Memory.wfFrom_cons]
    exact ⟨hlo, ha, hv, hr⟩

theorem Memory.read_write_from {a b : Nat} {v : Byte} :
    ∀ {lo : Nat} {m : Memory}, Memory.wfFrom lo m = true →
      (m.write a v).read b = if b = a then v else m.read b
  | _, [], _ => Memory.read_put rfl
  | _, (k, w) :: rest, hw => by
    have hc := Memory.wfFrom_cons.1 hw
    unfold Memory.write
    by_cases h1 : a < k
    · rw [if_pos h1]
      refine Memory.read_put (Memory.read_below h1 (lo := k) ?_)
      exact Memory.wfFrom_cons.2 ⟨le_refl k, hc.2⟩
    · rw [if_neg h1]
      by_cases h2 : a = k
      · subst h2
        rw [if_pos rfl, Memory.read_put (Memory.read_below (by omega) hc.2.2.2), Memory.read_cons]
        by_cases hb : b = a
        · simp [hb]
        · rw [if_neg hb, if_neg hb, if_neg (fun h => hb h.symm)]
      · rw [if_neg h2, Memory.read_cons, Memory.read_cons, Memory.read_write_from hc.2.2.2]
        by_cases hb : b = a
        · subst hb
          rw [if_neg (fun h => h2 h.symm), if_pos rfl, if_pos rfl]
        · rw [if_neg hb, if_neg hb]

theorem Memory.wfFrom_write {a : Nat} {v : Byte} (ha : a < 64) :
    ∀ {lo : Nat} {m : Memory}, lo ≤ a → Memory.wfFrom lo m = true →
      Memory.wfFrom lo (m.write a v) = true
  | _, [], hlo, _ => Memory.wfFrom_put hlo ha rfl
  | _, (k, w) :: rest, hlo, hw => by
    have hc := Memory.wfFrom_cons.1 hw
    unfold Memory.write
    by_cases h1 : a < k
    · rw [if_pos h1]
      exact Memory.wfFrom_put hlo ha (Memory.wfFrom_cons.2 ⟨h1, hc.2⟩)
    · rw [if_neg h1]
      by_cases h2 : a = k
      · subst h2
        rw [if_pos rfl]
        exact Memory.wfFrom_put hlo ha hc.2.2.2
      · rw [if_neg h2, Memory.wfFrom_cons]
        exact ⟨hc.1, hc.2.1, hc.2.2.1, Memory.wfFrom_write ha (by omega) hc.2.2.2⟩

/-- A read after a write: the byte written at its address, every other byte as before. -/
theorem Memory.read_write {m : Memory} (hw : m.wf = true) (a b : Nat) (v : Byte) :
    (m.write a v).read b = if b = a then v else m.read b :=
  Memory.read_write_from hw

/-- A write inside the buffer keeps the canonical form. -/
theorem Memory.wf_write {m : Memory} (hw : m.wf = true) {a : Nat} (ha : a < 64) (v : Byte) :
    (m.write a v).wf = true :=
  Memory.wfFrom_write ha (Nat.zero_le a) hw

/-- The cleared buffer is canonical. -/
theorem Memory.wf_clear : Memory.clear.wf = true := rfl

/-- Consecutive writes inside the buffer keep the canonical form. -/
theorem Memory.wf_writeBytes :
    ∀ {vs : List Byte} {m : Memory} {a : Nat}, m.wf = true → a + vs.length ≤ 64 →
      (m.writeBytes a vs).wf = true
  | [], _, _, hw, _ => hw
  | v :: vs, m, a, hw, ha => by
    simp only [List.length_cons] at ha
    rw [Memory.writeBytes]
    exact Memory.wf_writeBytes (Memory.wf_write hw (by omega) v) (by omega)

/-- A read after consecutive writes: the written byte inside their range, every other byte as before. -/
theorem Memory.read_writeBytes :
    ∀ {vs : List Byte} {m : Memory} {a : Nat} (b : Nat), m.wf = true → a + vs.length ≤ 64 →
      (m.writeBytes a vs).read b =
        if a ≤ b ∧ b < a + vs.length then vs.getD (b - a) 0 else m.read b
  | [], m, a, b, _, _ => by
    simp only [Memory.writeBytes, List.length_nil, Nat.add_zero]
    rw [if_neg (by omega)]
  | v :: vs, m, a, b, hw, ha => by
    simp only [List.length_cons] at ha ⊢
    rw [Memory.writeBytes, Memory.read_writeBytes b (Memory.wf_write hw (by omega) v) (by omega),
      Memory.read_write hw]
    by_cases h1 : a + 1 ≤ b ∧ b < a + 1 + vs.length
    · rw [if_pos h1, if_pos (by omega)]
      obtain ⟨c, hc⟩ : ∃ c, b - a = c + 1 := ⟨b - a - 1, by omega⟩
      rw [hc, List.getD_cons_succ]
      congr 1
      omega
    · rw [if_neg h1]
      by_cases h2 : b = a
      · subst h2
        simp
      · rw [if_neg h2, if_neg (by omega)]

/-- What a reset event leaves in the buffer is canonical. -/
theorem Memory.wf_freeBuf (draw : Nat) : (freeBuf draw).wf = true := by
  have key : ∀ (l : List Nat) (m : Memory), (∀ a ∈ l, a < 64) → m.wf = true →
      (l.foldl (fun m a => Memory.write m a (Config.freeByte draw a)) m).wf = true := by
    intro l
    induction l with
    | nil => intro m _ hw; exact hw
    | cons a l ih =>
      intro m hl hw
      exact ih _ (fun x hx => hl x (List.mem_cons_of_mem a hx))
        (Memory.wf_write hw (hl a List.mem_cons_self) _)
  exact key _ _ (fun a ha => List.mem_range.1 ha) Memory.wf_clear

/-- Canonical buffers that read alike are equal, so equal contents are equal data. -/
theorem Memory.ext_from :
    ∀ {lo : Nat} {m n : Memory}, Memory.wfFrom lo m = true → Memory.wfFrom lo n = true →
      (∀ a, m.read a = n.read a) → m = n
  | _, [], [], _, _, _ => rfl
  | _, [], (k, v) :: n, _, hn, h => by
    have := h k
    simp only [Memory.read_nil, Memory.read_cons, if_true] at this
    exact absurd this.symm (Memory.wfFrom_cons.1 hn).2.2.1
  | _, (k, v) :: m, [], hm, _, h => by
    have := h k
    simp only [Memory.read_nil, Memory.read_cons, if_true] at this
    exact absurd this (Memory.wfFrom_cons.1 hm).2.2.1
  | lo, (k, v) :: m, (l, w) :: n, hm, hn, h => by
    obtain ⟨m1, m2, m3, m4⟩ := Memory.wfFrom_cons.1 hm
    obtain ⟨n1, n2, n3, n4⟩ := Memory.wfFrom_cons.1 hn
    have hkl : k = l := by
      rcases Nat.lt_trichotomy k l with hlt | heq | hgt
      · have hk := h k
        rw [Memory.read_cons, if_pos rfl, Memory.read_cons, if_neg (by omega),
          Memory.read_below (by omega) n4] at hk
        exact absurd hk m3
      · exact heq
      · have hl := h l
        rw [Memory.read_cons, if_neg (by omega), Memory.read_cons, if_pos rfl,
          Memory.read_below (by omega) m4] at hl
        exact absurd hl.symm n3
    subst hkl
    have hv := h k
    simp only [Memory.read_cons, if_true] at hv
    subst hv
    congr 1
    refine Memory.ext_from m4 n4 fun a => ?_
    by_cases hak : a = k
    · subst hak
      rw [Memory.read_below (by omega) m4, Memory.read_below (by omega) n4]
    · have ha := h a
      rwa [Memory.read_cons, if_neg (fun e => hak e.symm), Memory.read_cons,
        if_neg (fun e => hak e.symm)] at ha

/-- Canonical buffers that read alike are equal. -/
theorem Memory.ext_read {m n : Memory} (hm : m.wf = true) (hn : n.wf = true)
    (h : ∀ a, m.read a = n.read a) : m = n :=
  Memory.ext_from hm hn h

end Sys2Proof.Machine
end

