-- ==== Sys2Proof/Laws/State.lean ====
section
/-! SUPPORT. The fields of the state under each named update: one lemma per field and update, each true by
unfolding (for `compress`, through the two updates it is made of), so that no later proof unfolds a record update. The proofs are `(rfl)`, in parentheses, so that simp rewrites with them and does not ask the
kernel to compute the two sides, which would run the compression function. A field that takes a free value has no lemma. -/

namespace Sys2Proof.Machine

/-! ### storeByte -/

@[simp] theorem State.storeByte_len (v : Byte) (s : State) : (s.storeByte v).len = s.len := (rfl)
@[simp] theorem State.storeByte_h (v : Byte) (s : State) : (s.storeByte v).h = s.h := (rfl)
@[simp] theorem State.storeByte_buf (v : Byte) (s : State) : (s.storeByte v).buf = s.buf.write s.fill.toNat v := (rfl)
@[simp] theorem State.storeByte_phase (v : Byte) (s : State) : (s.storeByte v).phase = s.phase := (rfl)
@[simp] theorem State.storeByte_err (v : Byte) (s : State) : (s.storeByte v).err = s.err := (rfl)
@[simp] theorem State.storeByte_work (v : Byte) (s : State) : (s.storeByte v).work = s.work := (rfl)
@[simp] theorem State.storeByte_t (v : Byte) (s : State) : (s.storeByte v).t = s.t := (rfl)
@[simp] theorem State.storeByte_busy (v : Byte) (s : State) : (s.storeByte v).busy = s.busy := (rfl)
@[simp] theorem State.storeByte_inputs (v : Byte) (s : State) : (s.storeByte v).inputs = s.inputs := (rfl)
@[simp] theorem State.storeByte_draws (v : Byte) (s : State) : (s.storeByte v).draws = s.draws := (rfl)

/-! ### countByte -/

@[simp] theorem State.countByte_len (s : State) : (s.countByte).len = s.len + 1 := (rfl)
@[simp] theorem State.countByte_h (s : State) : (s.countByte).h = s.h := (rfl)
@[simp] theorem State.countByte_buf (s : State) : (s.countByte).buf = s.buf := (rfl)
@[simp] theorem State.countByte_phase (s : State) : (s.countByte).phase = s.phase := (rfl)
@[simp] theorem State.countByte_err (s : State) : (s.countByte).err = s.err := (rfl)
@[simp] theorem State.countByte_work (s : State) : (s.countByte).work = s.work := (rfl)
@[simp] theorem State.countByte_t (s : State) : (s.countByte).t = s.t := (rfl)
@[simp] theorem State.countByte_busy (s : State) : (s.countByte).busy = s.busy := (rfl)
@[simp] theorem State.countByte_inputs (s : State) : (s.countByte).inputs = s.inputs := (rfl)
@[simp] theorem State.countByte_draws (s : State) : (s.countByte).draws = s.draws := (rfl)

/-! ### setAccs -/

@[simp] theorem State.setAccs_len (x : Accs) (s : State) : (s.setAccs x).len = s.len := (rfl)
@[simp] theorem State.setAccs_h (x : Accs) (s : State) : (s.setAccs x).h = x := (rfl)
@[simp] theorem State.setAccs_buf (x : Accs) (s : State) : (s.setAccs x).buf = s.buf := (rfl)
@[simp] theorem State.setAccs_phase (x : Accs) (s : State) : (s.setAccs x).phase = s.phase := (rfl)
@[simp] theorem State.setAccs_err (x : Accs) (s : State) : (s.setAccs x).err = s.err := (rfl)
@[simp] theorem State.setAccs_work (x : Accs) (s : State) : (s.setAccs x).work = s.work := (rfl)
@[simp] theorem State.setAccs_t (x : Accs) (s : State) : (s.setAccs x).t = s.t := (rfl)
@[simp] theorem State.setAccs_busy (x : Accs) (s : State) : (s.setAccs x).busy = s.busy := (rfl)
@[simp] theorem State.setAccs_inputs (x : Accs) (s : State) : (s.setAccs x).inputs = s.inputs := (rfl)
@[simp] theorem State.setAccs_draws (x : Accs) (s : State) : (s.setAccs x).draws = s.draws := (rfl)

/-! ### setWork -/

@[simp] theorem State.setWork_len (w : WorkRegs) (s : State) : (s.setWork w).len = s.len := (rfl)
@[simp] theorem State.setWork_h (w : WorkRegs) (s : State) : (s.setWork w).h = s.h := (rfl)
@[simp] theorem State.setWork_buf (w : WorkRegs) (s : State) : (s.setWork w).buf = s.buf := (rfl)
@[simp] theorem State.setWork_phase (w : WorkRegs) (s : State) : (s.setWork w).phase = s.phase := (rfl)
@[simp] theorem State.setWork_err (w : WorkRegs) (s : State) : (s.setWork w).err = s.err := (rfl)
@[simp] theorem State.setWork_work (w : WorkRegs) (s : State) : (s.setWork w).work = w := (rfl)
@[simp] theorem State.setWork_t (w : WorkRegs) (s : State) : (s.setWork w).t = s.t := (rfl)
@[simp] theorem State.setWork_busy (w : WorkRegs) (s : State) : (s.setWork w).busy = s.busy := (rfl)
@[simp] theorem State.setWork_inputs (w : WorkRegs) (s : State) : (s.setWork w).inputs = s.inputs := (rfl)
@[simp] theorem State.setWork_draws (w : WorkRegs) (s : State) : (s.setWork w).draws = s.draws := (rfl)

/-! ### setPhase -/

@[simp] theorem State.setPhase_len (p : Phase) (s : State) : (s.setPhase p).len = s.len := (rfl)
@[simp] theorem State.setPhase_h (p : Phase) (s : State) : (s.setPhase p).h = s.h := (rfl)
@[simp] theorem State.setPhase_buf (p : Phase) (s : State) : (s.setPhase p).buf = s.buf := (rfl)
@[simp] theorem State.setPhase_phase (p : Phase) (s : State) : (s.setPhase p).phase = p := (rfl)
@[simp] theorem State.setPhase_err (p : Phase) (s : State) : (s.setPhase p).err = s.err := (rfl)
@[simp] theorem State.setPhase_work (p : Phase) (s : State) : (s.setPhase p).work = s.work := (rfl)
@[simp] theorem State.setPhase_t (p : Phase) (s : State) : (s.setPhase p).t = s.t := (rfl)
@[simp] theorem State.setPhase_busy (p : Phase) (s : State) : (s.setPhase p).busy = s.busy := (rfl)
@[simp] theorem State.setPhase_inputs (p : Phase) (s : State) : (s.setPhase p).inputs = s.inputs := (rfl)
@[simp] theorem State.setPhase_draws (p : Phase) (s : State) : (s.setPhase p).draws = s.draws := (rfl)

/-! ### dropWork -/

@[simp] theorem State.dropWork_len (s : State) : (s.dropWork).len = s.len := (rfl)
@[simp] theorem State.dropWork_h (s : State) : (s.dropWork).h = s.h := (rfl)
@[simp] theorem State.dropWork_buf (s : State) : (s.dropWork).buf = s.buf := (rfl)
@[simp] theorem State.dropWork_phase (s : State) : (s.dropWork).phase = s.phase := (rfl)
@[simp] theorem State.dropWork_err (s : State) : (s.dropWork).err = s.err := (rfl)
@[simp] theorem State.dropWork_busy (s : State) : (s.dropWork).busy = s.busy := (rfl)
@[simp] theorem State.dropWork_inputs (s : State) : (s.dropWork).inputs = s.inputs := (rfl)
@[simp] theorem State.dropWork_draws (s : State) : (s.dropWork).draws = s.draws + 1 := (rfl)

/-! ### raise -/

@[simp] theorem State.raise_len (c : ErrCode) (s : State) : (s.raise c).len = s.len := (rfl)
@[simp] theorem State.raise_h (c : ErrCode) (s : State) : (s.raise c).h = s.h := (rfl)
@[simp] theorem State.raise_buf (c : ErrCode) (s : State) : (s.raise c).buf = s.buf := (rfl)
@[simp] theorem State.raise_phase (c : ErrCode) (s : State) : (s.raise c).phase = s.phase := (rfl)
@[simp] theorem State.raise_err (c : ErrCode) (s : State) : (s.raise c).err = if s.err = .clean then c else s.err := (rfl)
@[simp] theorem State.raise_work (c : ErrCode) (s : State) : (s.raise c).work = s.work := (rfl)
@[simp] theorem State.raise_t (c : ErrCode) (s : State) : (s.raise c).t = s.t := (rfl)
@[simp] theorem State.raise_busy (c : ErrCode) (s : State) : (s.raise c).busy = s.busy := (rfl)
@[simp] theorem State.raise_inputs (c : ErrCode) (s : State) : (s.raise c).inputs = s.inputs := (rfl)
@[simp] theorem State.raise_draws (c : ErrCode) (s : State) : (s.raise c).draws = s.draws := (rfl)

/-! ### hardReset -/

@[simp] theorem State.hardReset_buf (s : State) : (s.hardReset).buf = freeBuf s.draws := by
  rw [State.hardReset]
@[simp] theorem State.hardReset_phase (s : State) : (s.hardReset).phase = .uninit := (rfl)
@[simp] theorem State.hardReset_err (s : State) : (s.hardReset).err = .clean := (rfl)
@[simp] theorem State.hardReset_busy (s : State) : (s.hardReset).busy = false := (rfl)
@[simp] theorem State.hardReset_inputs (s : State) : (s.hardReset).inputs = s.inputs := (rfl)
@[simp] theorem State.hardReset_draws (s : State) : (s.hardReset).draws = s.draws + 1 := (rfl)

/-! ### pop -/

@[simp] theorem State.pop_len (s : State) : (s.pop).len = s.len := (rfl)
@[simp] theorem State.pop_h (s : State) : (s.pop).h = s.h := (rfl)
@[simp] theorem State.pop_buf (s : State) : (s.pop).buf = s.buf := (rfl)
@[simp] theorem State.pop_phase (s : State) : (s.pop).phase = s.phase := (rfl)
@[simp] theorem State.pop_err (s : State) : (s.pop).err = s.err := (rfl)
@[simp] theorem State.pop_work (s : State) : (s.pop).work = s.work := (rfl)
@[simp] theorem State.pop_t (s : State) : (s.pop).t = s.t := (rfl)
@[simp] theorem State.pop_busy (s : State) : (s.pop).busy = s.busy := (rfl)
@[simp] theorem State.pop_inputs (s : State) : (s.pop).inputs = s.inputs.tail := (rfl)
@[simp] theorem State.pop_draws (s : State) : (s.pop).draws = s.draws := (rfl)

/-! ### placeCommand -/

@[simp] theorem State.placeCommand_len (w : CmdWord) (s : State) : (s.placeCommand w).len = s.len := (rfl)
@[simp] theorem State.placeCommand_h (w : CmdWord) (s : State) : (s.placeCommand w).h = s.h := (rfl)
@[simp] theorem State.placeCommand_buf (w : CmdWord) (s : State) : (s.placeCommand w).buf = s.buf := (rfl)
@[simp] theorem State.placeCommand_phase (w : CmdWord) (s : State) : (s.placeCommand w).phase = s.phase := (rfl)
@[simp] theorem State.placeCommand_err (w : CmdWord) (s : State) : (s.placeCommand w).err = s.err := (rfl)
@[simp] theorem State.placeCommand_work (w : CmdWord) (s : State) : (s.placeCommand w).work = s.work := (rfl)
@[simp] theorem State.placeCommand_t (w : CmdWord) (s : State) : (s.placeCommand w).t = s.t := (rfl)
@[simp] theorem State.placeCommand_busy (w : CmdWord) (s : State) : (s.placeCommand w).busy = false := (rfl)
@[simp] theorem State.placeCommand_inputs (w : CmdWord) (s : State) : (s.placeCommand w).inputs = .cmd w :: s.inputs := (rfl)
@[simp] theorem State.placeCommand_draws (w : CmdWord) (s : State) : (s.placeCommand w).draws = s.draws := (rfl)

/-! ### placeStep -/

@[simp] theorem State.placeStep_len (i : StepIndex) (s : State) : (s.placeStep i).len = s.len := (rfl)
@[simp] theorem State.placeStep_h (i : StepIndex) (s : State) : (s.placeStep i).h = s.h := (rfl)
@[simp] theorem State.placeStep_buf (i : StepIndex) (s : State) : (s.placeStep i).buf = s.buf := (rfl)
@[simp] theorem State.placeStep_phase (i : StepIndex) (s : State) : (s.placeStep i).phase = s.phase := (rfl)
@[simp] theorem State.placeStep_err (i : StepIndex) (s : State) : (s.placeStep i).err = s.err := (rfl)
@[simp] theorem State.placeStep_work (i : StepIndex) (s : State) : (s.placeStep i).work = s.work := (rfl)
@[simp] theorem State.placeStep_t (i : StepIndex) (s : State) : (s.placeStep i).t = i := (rfl)
@[simp] theorem State.placeStep_busy (i : StepIndex) (s : State) : (s.placeStep i).busy = true := (rfl)
@[simp] theorem State.placeStep_inputs (i : StepIndex) (s : State) : (s.placeStep i).inputs = s.inputs := (rfl)
@[simp] theorem State.placeStep_draws (i : StepIndex) (s : State) : (s.placeStep i).draws = s.draws := (rfl)

/-! ### compress -/

@[simp] theorem State.compress_len (s : State) : (s.compress).len = s.len := by
  rw [State.compress, State.dropWork_len, State.setAccs_len]
@[simp] theorem State.compress_h (s : State) : (s.compress).h = compressBlock s.h (msgWord s.buf) := by
  rw [State.compress, State.dropWork_h, State.setAccs_h]
@[simp] theorem State.compress_buf (s : State) : (s.compress).buf = s.buf := by
  rw [State.compress, State.dropWork_buf, State.setAccs_buf]
@[simp] theorem State.compress_phase (s : State) : (s.compress).phase = s.phase := by
  rw [State.compress, State.dropWork_phase, State.setAccs_phase]
@[simp] theorem State.compress_err (s : State) : (s.compress).err = s.err := by
  rw [State.compress, State.dropWork_err, State.setAccs_err]
@[simp] theorem State.compress_busy (s : State) : (s.compress).busy = s.busy := by
  rw [State.compress, State.dropWork_busy, State.setAccs_busy]
@[simp] theorem State.compress_inputs (s : State) : (s.compress).inputs = s.inputs := by
  rw [State.compress, State.dropWork_inputs, State.setAccs_inputs]
@[simp] theorem State.compress_draws (s : State) : (s.compress).draws = s.draws + 1 := by
  rw [State.compress, State.dropWork_draws, State.setAccs_draws]

/-! ### startCompression -/

@[simp] theorem State.startCompression_len (s : State) : (s.startCompression).len = s.len := (rfl)
@[simp] theorem State.startCompression_h (s : State) : (s.startCompression).h = s.h := (rfl)
@[simp] theorem State.startCompression_buf (s : State) : (s.startCompression).buf = s.buf := (rfl)
@[simp] theorem State.startCompression_phase (s : State) : (s.startCompression).phase = s.phase := (rfl)
@[simp] theorem State.startCompression_err (s : State) : (s.startCompression).err = s.err := (rfl)
@[simp] theorem State.startCompression_work (s : State) : (s.startCompression).work = s.h.toWork := (rfl)
@[simp] theorem State.startCompression_t (s : State) : (s.startCompression).t = 0 := (rfl)
@[simp] theorem State.startCompression_busy (s : State) : (s.startCompression).busy = true := (rfl)
@[simp] theorem State.startCompression_inputs (s : State) : (s.startCompression).inputs = s.inputs := (rfl)
@[simp] theorem State.startCompression_draws (s : State) : (s.startCompression).draws = s.draws := (rfl)

/-! ### endCompression -/

@[simp] theorem State.endCompression_len (s : State) : (s.endCompression).len = s.len := (rfl)
@[simp] theorem State.endCompression_h (s : State) : (s.endCompression).h = s.h.addWork s.work := (rfl)
@[simp] theorem State.endCompression_buf (s : State) : (s.endCompression).buf = s.buf := (rfl)
@[simp] theorem State.endCompression_phase (s : State) : (s.endCompression).phase = s.phase := (rfl)
@[simp] theorem State.endCompression_err (s : State) : (s.endCompression).err = s.err := (rfl)
@[simp] theorem State.endCompression_busy (s : State) : (s.endCompression).busy = false := (rfl)
@[simp] theorem State.endCompression_inputs (s : State) : (s.endCompression).inputs = s.inputs := (rfl)
@[simp] theorem State.endCompression_draws (s : State) : (s.endCompression).draws = s.draws + 1 := (rfl)

/-! ### initialize -/

@[simp] theorem State.initialize_len (s : State) : (s.initialize).len = 0 := (rfl)
@[simp] theorem State.initialize_h (s : State) : (s.initialize).h = initAccs := (rfl)
@[simp] theorem State.initialize_buf (s : State) : (s.initialize).buf = Memory.clear := (rfl)
@[simp] theorem State.initialize_phase (s : State) : (s.initialize).phase = .accum := (rfl)
@[simp] theorem State.initialize_err (s : State) : (s.initialize).err = s.err := (rfl)
@[simp] theorem State.initialize_work (s : State) : (s.initialize).work = s.work := (rfl)
@[simp] theorem State.initialize_t (s : State) : (s.initialize).t = s.t := (rfl)
@[simp] theorem State.initialize_busy (s : State) : (s.initialize).busy = s.busy := (rfl)
@[simp] theorem State.initialize_inputs (s : State) : (s.initialize).inputs = s.inputs := (rfl)
@[simp] theorem State.initialize_draws (s : State) : (s.initialize).draws = s.draws := (rfl)

end Sys2Proof.Machine
end

