-- ==== Sys2Proof/Laws/Absorb.lean ====
section
/-! SUPPORT. What the shared operations of FEED and FINAL can do, said once: `absorb` field by field, and the frame of the
zero fill, of absorbing several bytes and of the padding. -/

namespace Sys2Proof.Machine

/-- Counting a byte moves the fill pointer on by one, modulo 64 (R30, R49). -/
theorem fill_countByte (s : State) : s.countByte.fill = s.fill + 1 := by
  simp only [State.fill, State.countByte_len]
  apply BitVec.eq_of_toNat_eq
  simp [BitVec.extractLsb'_toNat]

theorem fill_toNat (s : State) : s.fill.toNat = s.len.toNat % 64 := by
  simp [State.fill, BitVec.extractLsb'_toNat]

/-- The block-full test of `absorb` (R78): the byte went to address 63. -/
theorem fill_add_one_eq_zero (s : State) : s.fill + 1 = 0 ↔ s.fill = 63 := by
  have h := s.fill.isLt
  constructor <;> intro hh
  · apply BitVec.eq_of_toNat_eq
    have := congrArg BitVec.toNat hh
    simp [BitVec.toNat_add] at this ⊢
    omega
  · rw [hh]; rfl

@[simp] theorem storeByte_fill (v : Byte) (s : State) : (s.storeByte v).fill = s.fill := rfl

theorem absorb_eq (v : Byte) (s : State) :
    s.absorb v = if s.fill = 63 then ((s.storeByte v).countByte).compress else (s.storeByte v).countByte := by
  unfold State.absorb
  simp only [fill_countByte, storeByte_fill, fill_add_one_eq_zero]

@[simp] theorem State.absorb_len (v : Byte) (s : State) : (s.absorb v).len = s.len + 1 := by
  rw [absorb_eq]; split <;> simp

@[simp] theorem State.absorb_buf (v : Byte) (s : State) :
    (s.absorb v).buf = s.buf.write s.fill.toNat v := by
  rw [absorb_eq]; split <;> simp

@[simp] theorem State.absorb_phase (v : Byte) (s : State) : (s.absorb v).phase = s.phase := by
  rw [absorb_eq]; split <;> simp

@[simp] theorem State.absorb_err (v : Byte) (s : State) : (s.absorb v).err = s.err := by
  rw [absorb_eq]; split <;> simp

@[simp] theorem State.absorb_busy (v : Byte) (s : State) : (s.absorb v).busy = s.busy := by
  rw [absorb_eq]; split <;> simp

@[simp] theorem State.absorb_inputs (v : Byte) (s : State) : (s.absorb v).inputs = s.inputs := by
  rw [absorb_eq]; split <;> simp

/-- The accumulators change only when the byte completes the block (R78). -/
theorem State.absorb_h (v : Byte) (s : State) :
    (s.absorb v).h =
      if s.fill = 63 then compressBlock s.h (msgWord (s.buf.write s.fill.toNat v)) else s.h := by
  rw [absorb_eq]; split <;> simp

theorem State.absorb_fill (v : Byte) (s : State) : (s.absorb v).fill = s.fill + 1 := by
  have h := fill_countByte (s.storeByte v)
  simp only [State.fill, State.countByte_len, State.storeByte_len] at h
  simp only [State.fill, State.absorb_len]
  exact h

/-- `absorb` keeps the buffer canonical. -/
theorem absorb_wf (v : Byte) {s : State} (h : s.buf.wf = true) : (s.absorb v).buf.wf = true := by
  rw [State.absorb_buf]
  exact Memory.wf_write h s.fill.isLt v

/-- Several bytes absorbed, split after the first. -/
theorem State.absorbAll_cons (v : Byte) (vs : List Byte) (s : State) :
    s.absorbAll (v :: vs) = (s.absorb v).absorbAll vs := rfl

theorem State.absorbAll_append (us vs : List Byte) (s : State) :
    s.absorbAll (us ++ vs) = (s.absorbAll us).absorbAll vs :=
  List.foldl_append

/-- What absorbing, padding and the like leave alone (R90, R137): the phase, the error code, the port. -/
structure DataOnly (s t : State) : Prop where
  phase : t.phase = s.phase
  err : t.err = s.err
  busy : t.busy = s.busy
  inputs : t.inputs = s.inputs
  canonical : s.buf.wf = true → t.buf.wf = true

theorem DataOnly.refl (s : State) : DataOnly s s := ⟨rfl, rfl, rfl, rfl, id⟩

theorem DataOnly.trans {s t u : State} (h : DataOnly s t) (k : DataOnly t u) : DataOnly s u :=
  ⟨k.phase.trans h.phase, k.err.trans h.err, k.busy.trans h.busy, k.inputs.trans h.inputs,
    k.canonical ∘ h.canonical⟩

theorem absorb_dataOnly (v : Byte) (s : State) : DataOnly s (s.absorb v) :=
  ⟨State.absorb_phase v s, State.absorb_err v s, State.absorb_busy v s, State.absorb_inputs v s, absorb_wf v⟩

theorem absorbAll_dataOnly (vs : List Byte) (s : State) : DataOnly s (s.absorbAll vs) := by
  induction vs generalizing s with
  | nil => exact DataOnly.refl s
  | cons v vs ih => exact (absorb_dataOnly v s).trans (ih _)

theorem zeroFill_dataOnly (n : Nat) (s : State) : DataOnly s (s.zeroFill n) := by
  induction n generalizing s with
  | zero => exact DataOnly.refl s
  | succ n ih =>
    rw [State.zeroFill]
    split
    · exact DataOnly.refl s
    · exact (absorb_dataOnly _ s).trans (ih _)

/-- The padding touches `LEN`, `H`, `BUF` and the dead registers only. -/
theorem pad_dataOnly (s : State) : DataOnly s s.pad := by
  unfold State.pad
  exact (absorb_dataOnly _ s).trans ((zeroFill_dataOnly _ _).trans (absorbAll_dataOnly _ _))

/-- The zero fill is so many zero bytes absorbed as are missing to `FILL = 56` (R123). -/
theorem zeroFill_eq (n : Nat) (s : State) (h : (120 - s.fill.toNat) % 64 ≤ n) :
    s.zeroFill n = s.absorbAll (List.replicate ((120 - s.fill.toNat) % 64) 0x00#8) := by
  induction n generalizing s with
  | zero =>
    have : (120 - s.fill.toNat) % 64 = 0 := by omega
    rw [this]; rfl
  | succ n ih =>
    have hl := s.fill.isLt
    rw [State.zeroFill]
    by_cases hf : s.fill = 56
    · rw [if_pos hf, hf]; rfl
    · have hne : s.fill.toNat ≠ 56 := fun e => hf (BitVec.eq_of_toNat_eq e)
      have hfill : (s.absorb 0x00#8).fill.toNat = (s.fill.toNat + 1) % 64 := by
        rw [State.absorb_fill]; simp [BitVec.toNat_add]
      rw [if_neg hf, ih (s.absorb 0x00#8) (by rw [hfill]; omega), hfill]
      have hk : (120 - s.fill.toNat) % 64 = (120 - (s.fill.toNat + 1) % 64) % 64 + 1 := by omega
      rw [hk, List.replicate_succ, State.absorbAll_cons]

/-- The padding as one sequence of absorbed bytes: marker, zero bytes, length field (R120). -/
theorem pad_eq (s : State) :
    s.pad = s.absorbAll ([0x80#8] ++ List.replicate ((119 - s.fill.toNat) % 64) 0x00#8
      ++ le64Bytes (bitLength s.len)) := by
  have hl := s.fill.isLt
  have hfill : (s.absorb 0x80#8).fill.toNat = (s.fill.toNat + 1) % 64 := by
    rw [State.absorb_fill]; simp [BitVec.toNat_add]
  have hk : (120 - (s.fill.toNat + 1) % 64) % 64 = (119 - s.fill.toNat) % 64 := by omega
  rw [State.absorbAll_append, State.absorbAll_append]
  unfold State.pad
  rw [zeroFill_eq 64 _ (by rw [hfill]; omega), hfill, hk]
  rfl

/-! ### Several bytes absorbed -/

theorem absorb_fill_toNat (v : Byte) (s : State) : (s.absorb v).fill.toNat = (s.fill.toNat + 1) % 64 := by
  rw [State.absorb_fill]; simp [BitVec.toNat_add]

/-- `FILL` after several bytes (R81). -/
theorem absorbAll_fill (vs : List Byte) (s : State) :
    (s.absorbAll vs).fill.toNat = (s.fill.toNat + vs.length) % 64 := by
  induction vs generalizing s with
  | nil => have := s.fill.isLt; simp [State.absorbAll]; omega
  | cons v vs ih =>
    rw [State.absorbAll_cons, ih, absorb_fill_toNat]
    simp only [List.length_cons]
    omega

/-- `LEN` after several bytes (R81): up by their number, modulo 2^64. -/
theorem absorbAll_len (vs : List Byte) (s : State) :
    (s.absorbAll vs).len = s.len + BitVec.ofNat 64 vs.length := by
  induction vs generalizing s with
  | nil => simp [State.absorbAll]
  | cons v vs ih =>
    rw [State.absorbAll_cons, ih, State.absorb_len]
    apply BitVec.eq_of_toNat_eq
    simp
    omega

/-- Bytes that fit in the block are stored one after another from `FILL` up. -/
theorem absorbAll_buf (vs : List Byte) (s : State) (h : s.fill.toNat + vs.length ≤ 64) :
    (s.absorbAll vs).buf = s.buf.writeBytes s.fill.toNat vs := by
  induction vs generalizing s with
  | nil => rfl
  | cons v vs ih =>
    simp only [List.length_cons] at h
    rw [State.absorbAll_cons, Memory.writeBytes]
    cases vs with
    | nil => simp [State.absorbAll, Memory.writeBytes]
    | cons v' vs' =>
      simp only [List.length_cons] at h ih
      have hf : (s.absorb v).fill.toNat = s.fill.toNat + 1 := by
        rw [absorb_fill_toNat]; omega
      rw [ih _ (by omega), hf, State.absorb_buf]

/-- Bytes that do not complete the block leave the accumulators alone. -/
theorem absorbAll_h_partial (vs : List Byte) (s : State) (h : s.fill.toNat + vs.length < 64) :
    (s.absorbAll vs).h = s.h := by
  induction vs generalizing s with
  | nil => rfl
  | cons v vs ih =>
    simp only [List.length_cons] at h
    have hf : (s.absorb v).fill.toNat = s.fill.toNat + 1 := by
      rw [absorb_fill_toNat]; omega
    rw [State.absorbAll_cons, ih _ (by omega), State.absorb_h, if_neg]
    intro e
    have : s.fill.toNat = 63 := by rw [e]; rfl
    omega

/-- Bytes that fill the block exactly compress it once, with all of them in place (R79). -/
theorem absorbAll_h_full (vs : List Byte) (s : State) (hne : vs ≠ []) (h : s.fill.toNat + vs.length = 64) :
    (s.absorbAll vs).h = compressBlock s.h (msgWord (s.absorbAll vs).buf) := by
  induction vs generalizing s with
  | nil => exact absurd rfl hne
  | cons v vs ih =>
    simp only [List.length_cons] at h
    rw [State.absorbAll_cons]
    cases vs with
    | nil =>
      have e : s.fill = 63 := BitVec.eq_of_toNat_eq (by simpa using h)
      show (s.absorb v).h = compressBlock s.h (msgWord (s.absorb v).buf)
      rw [State.absorb_h, if_pos e, State.absorb_buf]
    | cons v' vs' =>
      simp only [List.length_cons] at h
      have hf : (s.absorb v).fill.toNat = s.fill.toNat + 1 := by
        rw [absorb_fill_toNat]; omega
      rw [ih _ (by simp) (by simp only [List.length_cons]; omega), State.absorb_h, if_neg]
      intro e
      have : s.fill.toNat = 63 := by rw [e]; rfl
      omega

end Sys2Proof.Machine
end

