-- ==== Sys2Proof/Laws/Exec.lean ====
section
/-! SUPPORT. What an instruction and a step of the machine can do, said once, for provers to cite instead of unfolding the
dispatch. -/

namespace Sys2Proof.Machine

/-- Outside ACCUM a FEED or a FINAL only raises its protocol error; in ACCUM it has its effect (R75). -/
theorem inAccum_cases (body : State → State) (s : State) :
    (s.phase = .uninit ∧ s.inAccum body = s.raise .seqUninit) ∨
    (s.phase = .done ∧ s.inAccum body = s.raise .seqDone) ∨
    (s.phase = .accum ∧ s.inAccum body = body s) := by
  unfold State.inAccum
  cases h : s.phase <;> simp

/-- What an instruction does: a command has its meaning, a step operation writes the working registers only. -/
theorem exec_cases (i : Instr) (s : State) :
    (i = .nop ∧ exec i s = .next s) ∨
    (i = .init ∧ exec i s = .next s.initialize) ∨
    (∃ v, i = .feed v ∧ exec i s = .next (s.inAccum (State.absorb v))) ∨
    (i = .final ∧ exec i s = .next (s.inAccum fun s => s.pad.setPhase .done)) ∨
    (∃ w, exec i s = .next (s.setWork w)) := by
  cases i
  case nop => exact .inl ⟨rfl, rfl⟩
  case init => exact .inr (.inl ⟨rfl, rfl⟩)
  case feed v => exact .inr (.inr (.inl ⟨v, rfl, rfl⟩))
  case final => exact .inr (.inr (.inr (.inl ⟨rfl, rfl⟩)))
  all_goals exact .inr (.inr (.inr (.inr ⟨_, rfl⟩)))

/-- A step index selects a step operation, which writes the working registers only (R96). -/
theorem exec_decodeStep (t : StepIndex) (s : State) :
    ∃ w, exec (decodeStep t) s = .next (s.setWork w) := by
  have key : ∀ t : StepIndex, decodeStep t ≠ .nop ∧ decodeStep t ≠ .init ∧
      (∀ v, decodeStep t ≠ .feed v) ∧ decodeStep t ≠ .final := by
    have h : ∀ t : StepIndex, (match decodeStep t with
        | .nop | .init | .feed _ | .final => false
        | _ => true) = true := by decide +kernel
    intro t
    have ht := h t
    refine ⟨?_, ?_, ?_, ?_⟩ <;> intros <;> intro e <;> rw [e] at ht <;> simp at ht
  obtain ⟨h1, h2, h3, h4⟩ := key t
  rcases exec_cases (decodeStep t) s with ⟨e, -⟩ | ⟨e, -⟩ | ⟨v, e, -⟩ | ⟨e, -⟩ | h
  · exact absurd e h1
  · exact absurd e h2
  · exact absurd e (h3 v)
  · exact absurd e h4
  · exact h

/-- What a step of the machine does: inside a compression a step operation and the sequencer's move; otherwise the next
event, or nothing. -/
theorem step_cases (s : State) :
    (s.busy = true ∧ ∃ w, step s = .next (s.setWork w).advance) ∨
    (s.busy = false ∧ s.inputs = [] ∧ step s = .next s) ∨
    (s.busy = false ∧ (∃ rest, s.inputs = .rst :: rest) ∧ step s = .next s.pop.hardReset) ∨
    (s.busy = false ∧ ∃ w rest, s.inputs = .cmd w :: rest ∧
      ((∃ i, decodeCmd w = .ok i ∧ step s = exec i s.pop) ∨
       (decodeCmd w = .error (.reserved w) ∧ step s = .next (s.pop.raise .rsvdEnc)))) := by
  unfold step runNext
  cases hb : s.busy
  · cases hi : s.inputs with
    | nil => simp
    | cons x rest =>
      cases x with
      | rst => simp
      | cmd w =>
        refine .inr (.inr (.inr ⟨rfl, w, rest, rfl, ?_⟩))
        simp only [Bool.false_eq_true, if_false, stepCommand]
        cases hd : decodeCmd w with
        | ok i => exact .inl ⟨i, rfl, rfl⟩
        | error e =>
          refine .inr ⟨?_, rfl⟩
          unfold decodeCmd at hd
          split at hd
          · cases hd
          · split at hd
            · injection hd with hd; rw [hd]
            · split at hd
              · cases hd
              · split at hd <;> cases hd
  · obtain ⟨w, hw⟩ := exec_decodeStep s.t s
    refine .inl ⟨rfl, w, ?_⟩
    simp only [if_true, stepCompression, hw]

end Sys2Proof.Machine
end

