-- ==== Sys2Proof/Laws/Compress.lean ====
section
/-! SUPPORT. The compression function unrolled by one step, and a run of the machine extended by one step at its end, so
that no proof evaluates the 64 steps. -/

namespace Sys2Proof.Machine

/-- One more step of the compression function (R93). -/
theorem runSteps_succ (words : BitVec 4 → Word) (n : Nat) (w : WorkRegs) :
    runSteps words (n + 1) w = stepAt words (BitVec.ofNat 6 n) (runSteps words n w) := rfl

/-- The compression function as its steps and its feed-forward (R90). -/
theorem compressBlock_eq (h : Accs) (words : BitVec 4 → Word) :
    compressBlock h words = h.addWork (runSteps words 64 h.toWork) := by
  rw [compressBlock]

/-- The compression function reads nothing but the 64 bytes of the buffer and `H` (R90). -/
theorem msgWord_congr {m n : Memory} (h : ∀ a, a < 64 → m.read a = n.read a) : msgWord m = msgWord n := by
  funext j
  have hj := j.isLt
  unfold msgWord Memory.readWord
  rw [h _ (by omega), h _ (by omega), h _ (by omega), h _ (by omega)]

/-- A run extended by one step at its end. -/
theorem run_snoc (M : Host.Core) (n : Nat) {a b c : M.State} (h1 : M.run n a = .next b) (h2 : M.step b = .next c) :
    M.run (n + 1) a = .next c := by
  induction n generalizing a with
  | zero =>
    simp only [Host.Core.run] at h1 ⊢
    cases h1
    rw [h2]
  | succ n ih =>
    unfold Host.Core.run at h1 ⊢
    cases hs : M.step a with
    | next a' => rw [hs] at h1; exact ih h1
    | fault r => rw [hs] at h1; cases h1
    | refused r => rw [hs] at h1; cases h1

end Sys2Proof.Machine
end

