-- ==== Sys2Proof/Laws/Decode.lean ====
section
/-! SUPPORT. The fields of a command word put together from an opcode and an operand (R60). -/

namespace Sys2Proof

/-- The opcode field of a word put together from an opcode and an operand. -/
theorem opField_append (o : BitVec 2) (v : Byte) : (o ++ v : CmdWord).extractLsb' 8 2 = o := by
  apply BitVec.eq_of_getLsbD_eq
  intro i hi
  simp only [BitVec.getLsbD_extractLsb', BitVec.getLsbD_append]
  rw [if_neg (by omega)]
  simp [hi]

/-- The operand field of a word put together from an opcode and an operand. -/
theorem dataField_append (o : BitVec 2) (v : Byte) : (o ++ v : CmdWord).extractLsb' 0 8 = v := by
  apply BitVec.eq_of_getLsbD_eq
  intro i hi
  simp only [BitVec.getLsbD_extractLsb', BitVec.getLsbD_append]
  simp [hi]

/-- A command word is its opcode field over its operand field. -/
theorem append_fields (w : CmdWord) : (cmdOp w ++ cmdData w : CmdWord) = w := by
  apply BitVec.eq_of_getLsbD_eq
  intro i hi
  simp only [cmdOp, cmdData, BitVec.getLsbD_extractLsb', BitVec.getLsbD_append]
  split
  · simp [*]
  · rw [show 8 + (i - 8) = i by omega]
    simp [show i - 8 < 2 by omega]

end Sys2Proof
end

