-- ==== Sys2Proof/Laws/PerInstr.lean ====
section
/-! SUPPORT. Statements about every instruction as syntax, one lemma per constructor. -/

namespace Sys2Proof.Laws.LegalEncoding

open Sys2Proof

/-- An instruction is well formed and its word is one the decoder accepts as legal: a command's word is no reserved
encoding (R61, R63), a step's word is a step index (R66). -/
def Statement (i : Instr) : Prop := i.wellFormed = true ∧ (encode i).wellFormed = true

theorem nop : Statement .nop := by unfold Statement; decide

theorem init : Statement .init := by unfold Statement; decide

theorem feed (v : Byte) : Statement (.feed v) := by
  refine ⟨decide_eq_true v.isLt, ?_⟩
  simp [encode, Code.wellFormed, CmdWord.legal, opField_append]

theorem final : Statement .final := by unfold Statement; decide

theorem ff00 : Statement .ff00 := by unfold Statement; decide

theorem ff01 : Statement .ff01 := by unfold Statement; decide

theorem ff02 : Statement .ff02 := by unfold Statement; decide

theorem ff03 : Statement .ff03 := by unfold Statement; decide

theorem ff04 : Statement .ff04 := by unfold Statement; decide

theorem ff05 : Statement .ff05 := by unfold Statement; decide

theorem ff06 : Statement .ff06 := by unfold Statement; decide

theorem ff07 : Statement .ff07 := by unfold Statement; decide

theorem ff08 : Statement .ff08 := by unfold Statement; decide

theorem ff09 : Statement .ff09 := by unfold Statement; decide

theorem ff10 : Statement .ff10 := by unfold Statement; decide

theorem ff11 : Statement .ff11 := by unfold Statement; decide

theorem ff12 : Statement .ff12 := by unfold Statement; decide

theorem ff13 : Statement .ff13 := by unfold Statement; decide

theorem ff14 : Statement .ff14 := by unfold Statement; decide

theorem ff15 : Statement .ff15 := by unfold Statement; decide

theorem gg16 : Statement .gg16 := by unfold Statement; decide

theorem gg17 : Statement .gg17 := by unfold Statement; decide

theorem gg18 : Statement .gg18 := by unfold Statement; decide

theorem gg19 : Statement .gg19 := by unfold Statement; decide

theorem gg20 : Statement .gg20 := by unfold Statement; decide

theorem gg21 : Statement .gg21 := by unfold Statement; decide

theorem gg22 : Statement .gg22 := by unfold Statement; decide

theorem gg23 : Statement .gg23 := by unfold Statement; decide

theorem gg24 : Statement .gg24 := by unfold Statement; decide

theorem gg25 : Statement .gg25 := by unfold Statement; decide

theorem gg26 : Statement .gg26 := by unfold Statement; decide

theorem gg27 : Statement .gg27 := by unfold Statement; decide

theorem gg28 : Statement .gg28 := by unfold Statement; decide

theorem gg29 : Statement .gg29 := by unfold Statement; decide

theorem gg30 : Statement .gg30 := by unfold Statement; decide

theorem gg31 : Statement .gg31 := by unfold Statement; decide

theorem hh32 : Statement .hh32 := by unfold Statement; decide

theorem hh33 : Statement .hh33 := by unfold Statement; decide

theorem hh34 : Statement .hh34 := by unfold Statement; decide

theorem hh35 : Statement .hh35 := by unfold Statement; decide

theorem hh36 : Statement .hh36 := by unfold Statement; decide

theorem hh37 : Statement .hh37 := by unfold Statement; decide

theorem hh38 : Statement .hh38 := by unfold Statement; decide

theorem hh39 : Statement .hh39 := by unfold Statement; decide

theorem hh40 : Statement .hh40 := by unfold Statement; decide

theorem hh41 : Statement .hh41 := by unfold Statement; decide

theorem hh42 : Statement .hh42 := by unfold Statement; decide

theorem hh43 : Statement .hh43 := by unfold Statement; decide

theorem hh44 : Statement .hh44 := by unfold Statement; decide

theorem hh45 : Statement .hh45 := by unfold Statement; decide

theorem hh46 : Statement .hh46 := by unfold Statement; decide

theorem hh47 : Statement .hh47 := by unfold Statement; decide

theorem ii48 : Statement .ii48 := by unfold Statement; decide

theorem ii49 : Statement .ii49 := by unfold Statement; decide

theorem ii50 : Statement .ii50 := by unfold Statement; decide

theorem ii51 : Statement .ii51 := by unfold Statement; decide

theorem ii52 : Statement .ii52 := by unfold Statement; decide

theorem ii53 : Statement .ii53 := by unfold Statement; decide

theorem ii54 : Statement .ii54 := by unfold Statement; decide

theorem ii55 : Statement .ii55 := by unfold Statement; decide

theorem ii56 : Statement .ii56 := by unfold Statement; decide

theorem ii57 : Statement .ii57 := by unfold Statement; decide

theorem ii58 : Statement .ii58 := by unfold Statement; decide

theorem ii59 : Statement .ii59 := by unfold Statement; decide

theorem ii60 : Statement .ii60 := by unfold Statement; decide

theorem ii61 : Statement .ii61 := by unfold Statement; decide

theorem ii62 : Statement .ii62 := by unfold Statement; decide

theorem ii63 : Statement .ii63 := by unfold Statement; decide

end Sys2Proof.Laws.LegalEncoding
end

