-- ==== Sys2Proof/Tests/Slice0.lean ====
section
/-! SUPPORT. Tests: the smoke test of WellFormed, words written out from the encodings, single instructions and steps on
small states with results taken from spec/95_test_vectors.md, and for every obligation with hypotheses a state and operands that
meet them. -/

namespace Sys2Proof.Tests

open Sys2Proof.Machine Sys2Proof.Safety

/-! ## Helpers -/

/-- The next state, if there is one. -/
def after (o : Host.Outcome State Fault Refusal) : Option State :=
  match o with
  | .next t => some t
  | _ => none

/-- What a property says of the next state; false where there is none. -/
def holds (o : Host.Outcome State Fault Refusal) (p : State → Bool) : Bool :=
  match o with
  | .next t => p t
  | _ => false

/-- An accumulating engine with IV, the given count and the given bytes from address 0 up. -/
def accum (len : Count) (bytes : List Byte) : State :=
  { State.reset with len := len, h := initAccs, buf := Memory.writeBytes [] 0 bytes, phase := .accum }

/-- An engine in DONE that shows the digest of E1 (spec/95 section 1). -/
def doneE1 : State :=
  { State.reset with len := 64, h := ⟨0xd98c1dd4#32, 0x04b2008f#32, 0x980980e9#32, 0x7e42f8ec#32⟩, phase := .done }

/-- A state with events at the ports. -/
def withInputs (s : State) (inputs : List Input) : State := { s with inputs := inputs }

/-- The bytes 0, 1, ..., n - 1. -/
def counting (n : Nat) : List Byte := (List.range n).map (BitVec.ofNat 8)

/-- A state with the given working registers in which message word `j` is `m` and the others are 0. -/
def working (a b c d : Word) (j : Nat) (m : Word) : State :=
  { State.reset with work := ⟨a, b, c, d⟩, buf := Memory.writeBytes [] (4 * j) (le32Bytes m) }

/-- One instruction on such a state leaves these working registers. -/
def stepGives (i : Instr) (s : State) (a b c d : Word) : Bool :=
  holds (exec i s) fun t => decide (t.work = ⟨a, b, c, d⟩)

/-! ## WellFormed refuses ill-formed terms (R62, R63, R66) -/

theorem test_wf_refuses_nop_with_operand : CmdWord.legal 0b0000000001#10 = false := by decide
theorem test_wf_refuses_init_with_operand : CmdWord.legal 0b0111111111#10 = false := by decide
theorem test_wf_refuses_final_with_operand : CmdWord.legal 0b1100000001#10 = false := by decide
theorem test_wf_refuses_reserved_code : Code.wellFormed (.cmd 0b1110000000#10) = false := by decide
theorem test_wf_accepts_every_feed : ∀ v : Byte, CmdWord.legal (0b10#2 ++ v) = true := by decide
theorem test_wf_accepts_the_last_step : Code.wellFormed (.step 0b111111#6) = true := by decide
theorem test_wf_accepts_the_largest_operand : Instr.wellFormed (.feed 0xff#8) = true := by decide

/-! ## Words written out from the encodings (R61, R67; spec/95 section 6.1) -/

theorem test_decode_commands :
    decodeCmd 0b0000000000#10 = .ok .nop ∧ decodeCmd 0b0100000000#10 = .ok .init ∧
    decodeCmd 0b1100000000#10 = .ok .final ∧ decodeCmd 0b1000000000#10 = .ok (.feed 0x00#8) ∧
    decodeCmd 0b1001100001#10 = .ok (.feed 0x61#8) ∧ decodeCmd 0b1010000000#10 = .ok (.feed 0x80#8) ∧
    decodeCmd 0b1011111111#10 = .ok (.feed 0xff#8) := by refine ⟨?_, ?_, ?_, ?_, ?_, ?_, ?_⟩ <;> rfl

theorem test_decode_reserved :
    ([0x001#10, 0x080#10, 0x0ff#10, 0x101#10, 0x1ff#10, 0x301#10, 0x380#10, 0x3ff#10].all fun w =>
      match decodeCmd w with
      | .error (.reserved x) => x == w
      | .ok _ => false) = true := by decide

theorem test_decode_ff_rows :
    ([0b000000#6, 0b000001#6, 0b000010#6, 0b000011#6, 0b000100#6, 0b000101#6, 0b000110#6, 0b000111#6,
      0b001000#6, 0b001001#6, 0b001010#6, 0b001011#6, 0b001100#6, 0b001101#6, 0b001110#6, 0b001111#6].map decodeStep) =
     [.ff00, .ff01, .ff02, .ff03, .ff04, .ff05, .ff06, .ff07,
      .ff08, .ff09, .ff10, .ff11, .ff12, .ff13, .ff14, .ff15] := by decide

theorem test_decode_gg_rows :
    ([0b010000#6, 0b010001#6, 0b010010#6, 0b010011#6, 0b010100#6, 0b010101#6, 0b010110#6, 0b010111#6,
      0b011000#6, 0b011001#6, 0b011010#6, 0b011011#6, 0b011100#6, 0b011101#6, 0b011110#6, 0b011111#6].map decodeStep) =
     [.gg16, .gg17, .gg18, .gg19, .gg20, .gg21, .gg22, .gg23,
      .gg24, .gg25, .gg26, .gg27, .gg28, .gg29, .gg30, .gg31] := by decide

theorem test_decode_hh_rows :
    ([0b100000#6, 0b100001#6, 0b100010#6, 0b100011#6, 0b100100#6, 0b100101#6, 0b100110#6, 0b100111#6,
      0b101000#6, 0b101001#6, 0b101010#6, 0b101011#6, 0b101100#6, 0b101101#6, 0b101110#6, 0b101111#6].map decodeStep) =
     [.hh32, .hh33, .hh34, .hh35, .hh36, .hh37, .hh38, .hh39,
      .hh40, .hh41, .hh42, .hh43, .hh44, .hh45, .hh46, .hh47] := by decide

theorem test_decode_ii_rows :
    ([0b110000#6, 0b110001#6, 0b110010#6, 0b110011#6, 0b110100#6, 0b110101#6, 0b110110#6, 0b110111#6,
      0b111000#6, 0b111001#6, 0b111010#6, 0b111011#6, 0b111100#6, 0b111101#6, 0b111110#6, 0b111111#6].map decodeStep) =
     [.ii48, .ii49, .ii50, .ii51, .ii52, .ii53, .ii54, .ii55,
      .ii56, .ii57, .ii58, .ii59, .ii60, .ii61, .ii62, .ii63] := by decide

theorem test_table_word_command : decodeTableWord 16 0x261 = some (.feed 0x61#8) := by decide
theorem test_table_word_step : decodeTableWord 8 0x17 = some .gg23 := by decide
theorem test_table_word_reserved : decodeTableWord 16 0x301 = none := by decide
theorem test_table_word_above_the_format :
    decodeTableWord 16 0x400 = none ∧ decodeTableWord 8 0x40 = none := by decide

/-- A placed row is the very next instruction, as a command and as a step operation. -/
theorem test_placed_rows_run :
    holds (step (State.reset.withFetchWord 16 0x100)) (fun t => decide (t.phase = .accum ∧ t.inputs = [])) = true ∧
    holds (step (State.reset.withFetchWord 16 0x261)) (fun t => decide (t.err = .seqUninit)) = true ∧
    holds (step (State.reset.withFetchWord 8 0x10))
      (fun t => decide (t.work = ⟨0, 0xc3c4ac5e#32, 0, 0⟩ ∧ t.t = 17)) = true := by decide

/-! ## Step operations: the trace of E2 (spec/95 section 1), one step each, and corner cases (section 4.3) -/

/-- The register `b` after each of the 64 steps of E2, first the registers a, d, c, b before step 0: since the registers
rotate, the four before step `t` are the entries `t`, `t + 3`, `t + 2`, `t + 1`. -/
def traceE2 : List Word :=
  [0x67452301#32, 0x10325476#32, 0x98badcfe#32, 0xefcdab89#32] ++
  [0xd6d117b4#32, 0x344a8432#32, 0x2f6fbd72#32, 0x7ad956f2#32,
   0xc73741ef#32, 0x8bac3051#32, 0x207dc67b#32, 0x928d99f6#32,
   0x854b3712#32, 0x74e2f284#32, 0x3020401c#32, 0x5ed49596#32,
   0xdda9b9a6#32, 0xa1051895#32, 0xe396856b#32, 0x72aff2e0#32] ++
  [0x3e9e9126#32, 0x4a1d804e#32, 0xe25e1652#32, 0xb5b204e4#32,
   0x59a8ffda#32, 0x6d002f1e#32, 0xabfc7920#32, 0x47092c07#32,
   0xb7f268cf#32, 0x09388eff#32, 0xfe1623b1#32, 0x786acb8f#32,
   0x790a77fb#32, 0x9f47e4f8#32, 0xa62884aa#32, 0x726342d3#32] ++
  [0xb3707ebf#32, 0x60127b2e#32, 0x8d212ff5#32, 0x3b0875c7#32,
   0x21b117b9#32, 0x6e7429d5#32, 0x3575227e#32, 0x5a2f5ea5#32,
   0x11de1779#32, 0xfadcaa38#32, 0x31c465ca#32, 0x4c6124f4#32,
   0x7f2e507b#32, 0x99d9679d#32, 0x8fae6399#32, 0x7beb9700#32] ++
  [0x7b201df8#32, 0xf4e8e96e#32, 0xb298cefd#32, 0x8bf025c4#32,
   0x06cc5e8a#32, 0x5b0d97aa#32, 0x7d632dd0#32, 0x3bfa2c27#32,
   0x7f81cc35#32, 0x094454ab#32, 0x4f9dbe3f#32, 0x7327d604#32,
   0x310ade8f#32, 0x624d8cb2#32, 0xe484b9d8#32, 0xc08226b3#32]

/-- The block of E2. -/
def blockE2 : Memory := Memory.writeBytes [(56, 0x18#8)] 0 [0x61#8, 0x62#8, 0x63#8, 0x80#8]

/-- Step `t` of E2 by itself: from the registers the trace gives before it to the ones after it. -/
def rowOfE2 (t : Nat) : Bool :=
  let r := fun k => traceE2.getD k 0
  stepGives (decodeStep (BitVec.ofNat 6 t)) { State.reset with work := ⟨r t, r (t + 3), r (t + 2), r (t + 1)⟩, buf := blockE2 }
    (r (t + 1)) (r (t + 4)) (r (t + 3)) (r (t + 2))

theorem test_trace_is_whole : traceE2.length = 68 := by decide
theorem test_ff_trace : ((List.range 16).all rowOfE2) = true := by decide +kernel
theorem test_gg_trace : ((List.range 16).all fun k => rowOfE2 (16 + k)) = true := by decide +kernel
theorem test_hh_trace : ((List.range 16).all fun k => rowOfE2 (32 + k)) = true := by decide +kernel
theorem test_ii_trace : ((List.range 16).all fun k => rowOfE2 (48 + k)) = true := by decide +kernel

theorem test_ff_corner_cases :
    (stepGives .ff00 (working 0xffffffff 0xffffffff 0xffffffff 0xffffffff 0 0xffffffff) 0xffffffff 0xb5523aea 0xffffffff 0xffffffff &&
     stepGives .ff00 (working 0x12345678 0x9abcdef0 0x0f1e2d3c 0x4b5a6978 0 0xcafebabe) 0x4b5a6978 0x98ae526f 0x9abcdef0 0x0f1e2d3c &&
     stepGives .ff15 (working 0xffffffff 0xffffffff 0xffffffff 0xffffffff 15 0xffffffff) 0xffffffff 0x07926d01 0xffffffff 0xffffffff &&
     stepGives .ff15 (working 0x12345678 0x9abcdef0 0x0f1e2d3c 0x4b5a6978 15 0xcafebabe) 0x4b5a6978 0x3e997041 0x9abcdef0 0x0f1e2d3c &&
     stepGives .ff03 (working 0x00000001 0x00000002 0x00000003 0x00000004 3 0x00000005) 0x00000004 0xbeb06f75 0x00000002 0x00000003 &&
     stepGives .ff07 (working 0xffffffff 0x00000000 0x00000000 0x00000000 7 0x00000001) 0x00000000 0x407f51a5 0x00000000 0x00000000) = true := by
  decide +kernel

theorem test_gg_corner_cases :
    (stepGives .gg16 (working 0xffffffff 0xffffffff 0xffffffff 0xffffffff 1 0xffffffff) 0xffffffff 0xc3c4abfd 0xffffffff 0xffffffff &&
     stepGives .gg16 (working 0x12345678 0x9abcdef0 0x0f1e2d3c 0x4b5a6978 1 0xcafebabe) 0x4b5a6978 0xc86d408c 0x9abcdef0 0x0f1e2d3c &&
     stepGives .gg31 (working 0xffffffff 0xffffffff 0xffffffff 0xffffffff 12 0xffffffff) 0xffffffff 0xc878d2a3 0xffffffff 0xffffffff &&
     stepGives .gg31 (working 0x12345678 0x9abcdef0 0x0f1e2d3c 0x4b5a6978 12 0xcafebabe) 0x4b5a6978 0x3e04668a 0x9abcdef0 0x0f1e2d3c &&
     stepGives .gg19 (working 0x67452301 0xefcdab89 0x98badcfe 0x10325476 0 0x80636261) 0x10325476 0x49134a06 0xefcdab89 0x98badcfe &&
     stepGives .gg22 (working 0x00000000 0x00000000 0xffffffff 0x00000000 15 0x00000000) 0x00000000 0x79a03628 0x00000000 0xffffffff) = true := by
  decide +kernel

theorem test_hh_corner_cases :
    (stepGives .hh32 (working 0xffffffff 0xffffffff 0xffffffff 0xffffffff 5 0xffffffff) 0xffffffff 0xffa393fe 0xffffffff 0xffffffff &&
     stepGives .hh32 (working 0x12345678 0x9abcdef0 0x0f1e2d3c 0x4b5a6978 5 0xcafebabe) 0x4b5a6978 0x5d1b31bb 0x9abcdef0 0x0f1e2d3c &&
     stepGives .hh47 (working 0xffffffff 0xffffffff 0xffffffff 0xffffffff 2 0xffffffff) 0xffffffff 0x3162562a 0xffffffff 0xffffffff &&
     stepGives .hh47 (working 0x12345678 0x9abcdef0 0x0f1e2d3c 0x4b5a6978 2 0xcafebabe) 0x4b5a6978 0xc27d4af1 0x9abcdef0 0x0f1e2d3c &&
     stepGives .hh35 (working 0x67452301 0xefcdab89 0x98badcfe 0x10325476 14 0x00000018) 0x10325476 0x0333e348 0xefcdab89 0x98badcfe &&
     stepGives .hh40 (working 0x00000000 0x00000001 0x00000001 0x00000000 13 0x00000000) 0x00000000 0x89b7ec63 0x00000001 0x00000001) = true := by
  decide +kernel

theorem test_ii_corner_cases :
    (stepGives .ii48 (working 0xffffffff 0xffffffff 0xffffffff 0xffffffff 0 0xffffffff) 0xffffffff 0x0a4890bc 0xffffffff 0xffffffff &&
     stepGives .ii48 (working 0x12345678 0x9abcdef0 0x0f1e2d3c 0x4b5a6978 0 0xcafebabe) 0x4b5a6978 0x5ac6b050 0x9abcdef0 0x0f1e2d3c &&
     stepGives .ii63 (working 0xffffffff 0xffffffff 0xffffffff 0xffffffff 9 0xffffffff) 0xffffffff 0x71fd70d9 0xffffffff 0xffffffff &&
     stepGives .ii63 (working 0x12345678 0x9abcdef0 0x0f1e2d3c 0x4b5a6978 9 0xcafebabe) 0x4b5a6978 0xad0c2aab 0x9abcdef0 0x0f1e2d3c &&
     stepGives .ii51 (working 0x00000000 0xffffffff 0x00000000 0xffffffff 5 0x00000000) 0xffffffff 0x071f9273 0xffffffff 0x00000000 &&
     stepGives .ii60 (working 0x00000000 0x00000000 0x00000000 0xffffffff 4 0x00000000) 0xffffffff 0xd4dfa0bd 0x00000000 0x00000000) = true := by
  decide +kernel

/-- The last step of a compression at the step level: the registers after step 63 of E1 are added into IV. -/
theorem test_feed_forward :
    holds (step { State.reset with
      h := initAccs, t := 63, busy := true,
      work := ⟨0x30130182#32, 0xff4ea3eb#32, 0x6e10a476#32, 0x7246fad3#32⟩ })
      (fun t => decide (t.h = ⟨0xd98c1dd4#32, 0x04b2008f#32, 0x980980e9#32, 0x7e42f8ec#32⟩ ∧ t.busy = false)) = true := by
  decide +kernel

/-- The nonlinear functions (spec/95 section 4.1). -/
theorem test_nonlinear_functions :
    fF 0xefcdab89 0x98badcfe 0x10325476 = 0x98badcfe#32 ∧ fG 0xefcdab89 0x98badcfe 0x10325476 = 0x88888888#32 ∧
    fH 0xefcdab89 0x98badcfe 0x10325476 = 0x67452301#32 ∧ fI 0xefcdab89 0x98badcfe 0x10325476 = 0x77777777#32 ∧
    fF 0xaaaaaaaa 0x55555555 0xffff0000 = 0x55550000#32 ∧ fG 0xaaaaaaaa 0x55555555 0xffff0000 = 0xaaaa5555#32 ∧
    fH 1 2 4 = 7#32 ∧ fI 1 2 4 = 0xfffffff9#32 := by decide

/-- Left rotation (spec/95 section 4.2). -/
theorem test_rotation :
    rotl32 0x80000001 4 = 0x00000018#32 ∧ rotl32 0xdeadbeef 23 = 0x77ef56df#32 ∧ rotl32 0x12345678 12 = 0x45678123#32 ∧
    rotl32 0x80000000 1 = 1#32 ∧ rotl32 1 31 = 0x80000000#32 := by decide

/-- The compression function from zero accumulators over the bytes 0x00 to 0x3f (spec/95 section 5). -/
theorem test_compress :
    compressBlock ⟨0, 0, 0, 0⟩ (blockWord (counting 64)) =
      ⟨0x726c284d#32, 0xc54d0f2b#32, 0xd8a008e8#32, 0x45303b78#32⟩ := by decide +kernel

/-! ## Commands (spec/95 sections 3 and 6) -/

/-- `BUF` reads as these bytes, from address 0 up. -/
def bufIs (s : State) (bytes : List Byte) : Bool := (List.range bytes.length).all fun k => s.buf.read k == bytes.getD k 0

theorem test_nop_in_done : after (exec .nop doneE1) = some doneE1 := by decide

theorem test_init_abandons :
    after (exec .init (accum 1 [0x61#8])) = some (accum 0 []) := by decide

theorem test_init_keeps_the_error :
    holds (exec .init { doneE1 with err := .seqDone }) (fun t => t.status == 0b1001#4 && t.digest.isNone) = true := by decide

theorem test_feed_appends :
    after (exec (.feed 0x62#8) (accum 1 [0x61#8])) = some (accum 2 [0x61#8, 0x62#8]) := by decide

/-- A message byte 0x00 is counted, although the canonical buffer lists nothing for it. -/
theorem test_feed_zero_is_counted : after (exec (.feed 0x00#8) (accum 0 [])) = some (accum 1 []) := by decide

theorem test_feed_completes_a_block :
    holds (exec (.feed 0x3f#8) (accum 63 (counting 63))) (fun t =>
      decide (t.h = ⟨0x9144d9ca#32, 0xd901e4c9#32, 0x72fc5b38#32, 0x625ff51e#32⟩ ∧ t.len = 64) &&
        bufIs t (counting 64)) = true := by decide +kernel

theorem test_feed_wraps_the_count :
    holds (exec (.feed 0x3f#8) (accum 0xffffffffffffffff#64 (counting 63))) (fun t =>
      decide (t.h = ⟨0x9144d9ca#32, 0xd901e4c9#32, 0x72fc5b38#32, 0x625ff51e#32⟩ ∧ t.len = 0 ∧ t.err = .clean)) = true := by
  decide +kernel

/-- FINAL after one byte 0x61: digest 0cc175b9c0f1b6a831c399e269772661. -/
theorem test_final_of_one_byte :
    holds (exec .final (accum 1 [0x61#8])) (fun t =>
      t.h.digestBytes == [0x0c#8, 0xc1#8, 0x75#8, 0xb9#8, 0xc0#8, 0xf1#8, 0xb6#8, 0xa8#8, 0x31#8, 0xc3#8, 0x99#8, 0xe2#8,
        0x69#8, 0x77#8, 0x26#8, 0x61#8] && t.status == 0b0010#4) = true := by decide +kernel

/-- FILL 56, two compressions: the message of 56 bytes 0x61. -/
theorem test_final_of_a_long_tail :
    holds (exec .final (accum 56 (List.replicate 56 0x61#8))) (fun t =>
      decide (t.h = ⟨0xc78a0c3b#32, 0xb028f803#32, 0x70196c4c#32, 0x1872d106#32⟩ ∧ t.len = 128)) = true := by decide +kernel

/-- The bit length uses all 64 bits and is written low byte first; the stale bytes 0xaa are not read. -/
theorem test_final_length_field :
    holds (exec .final (accum 0x0000000100000003#64 ([0x61#8, 0x62#8, 0x63#8] ++ List.replicate 61 0xaa#8))) (fun t =>
      decide (t.h = ⟨0x73a3a1da#32, 0x254db4af#32, 0x2045d640#32, 0x823cc213#32⟩ ∧ msgWord t.buf 14 = 0x18 ∧
        msgWord t.buf 15 = 8)) = true := by decide +kernel

/-- The count wraps in the padding: LEN 0xffffffffffffffc0 becomes 0. -/
theorem test_final_wraps_the_count :
    holds (exec .final (accum 0xffffffffffffffc0#64 (List.replicate 64 0xaa#8))) (fun t =>
      decide (t.h = ⟨0xdfd6f3a9#32, 0x4d99bdcc#32, 0x3404ef6d#32, 0xc29f48a1#32⟩ ∧ t.len = 0)) = true := by decide +kernel

/-- A dropped command records its code and changes nothing else. -/
theorem test_errors_drop_the_command :
    after (exec (.feed 0x62#8) State.reset) = some { State.reset with err := .seqUninit } ∧
    after (exec .final State.reset) = some { State.reset with err := .seqUninit } ∧
    after (exec (.feed 0x62#8) doneE1) = some { doneE1 with err := .seqDone } ∧
    after (exec .final doneE1) = some { doneE1 with err := .seqDone } := by decide

/-- A reserved word is an error in every phase; the first code stays. -/
theorem test_reserved_words_and_the_first_code :
    after (step (withInputs doneE1 [.cmd 0x301])) = some { doneE1 with err := .rsvdEnc } ∧
    after (step (withInputs { State.reset with err := .seqUninit } [.cmd 0x301])) =
      some { State.reset with err := .seqUninit } ∧
    after (step (withInputs { State.reset with err := .rsvdEnc } [.cmd 0x261])) =
      some { State.reset with err := .rsvdEnc } := by decide

/-- The status word of every phase and the digest port (spec/95 section 6.2). -/
theorem test_status_and_digest :
    State.reset.status = 0b0000#4 ∧ (accum 0 []).status = 0b0001#4 ∧ doneE1.status = 0b0010#4 ∧
    { doneE1 with err := .rsvdEnc }.status = 0b1110#4 ∧ (accum 0 []).digest = none ∧
    doneE1.h.digestBytes = [0xd4#8, 0x1d#8, 0x8c#8, 0xd9#8, 0x8f#8, 0x00#8, 0xb2#8, 0x04#8, 0xe9#8, 0x80#8, 0x09#8, 0x98#8,
      0xec#8, 0xf8#8, 0x42#8, 0x7e#8] ∧ doneE1.digest = some 0x7e42f8ec980980e904b2008fd98c1dd4#128 := by decide

/-! ## Witnesses: for each obligation with hypotheses, a state and operands that meet them -/

theorem witness_ResetEventClears :
    (withInputs { doneE1 with err := .seqDone } [.rst, .cmd 0x100]).busy = false ∧
    (withInputs { doneE1 with err := .seqDone } [.rst, .cmd 0x100]).inputs = .rst :: [.cmd 0x100] := by decide

/-- One word for each clause, at the ends of the FEED range and of the reserved ranges. -/
theorem witness_DecodeFollowsTheFields :
    (0x200#10).toNat / 256 = 2 ∧ (0x2ff#10).toNat / 256 = 2 ∧
    ((0x1ff#10).toNat / 256 ≠ 2 ∧ (0x1ff#10).toNat % 256 ≠ 0) ∧ ((0x301#10).toNat / 256 ≠ 2 ∧ (0x301#10).toNat % 256 ≠ 0) ∧
    ((0x001#10).toNat / 256 ≠ 2 ∧ (0x001#10).toNat % 256 ≠ 0) ∧
    (0x000#10).toNat = 0x000 ∧ (0x100#10).toNat = 0x100 ∧ (0x300#10).toNat = 0x300 := by decide

theorem witness_ReservedWordsRaise :
    CmdWord.legal 0x3ff#10 = false ∧ (withInputs doneE1 [.cmd 0x3ff]).busy = false ∧
    (withInputs doneE1 [.cmd 0x3ff]).inputs = .cmd 0x3ff :: [] := by decide

theorem witness_StepRunsTheCommand :
    (withInputs State.reset [.cmd 0x2ff]).busy = false ∧ (withInputs State.reset [.cmd 0x2ff]).inputs = .cmd 0x2ff :: [] ∧
    decodeCmd 0x2ff = .ok (.feed 0xff#8) := ⟨rfl, rfl, rfl⟩

/-- Both clauses: a step before the last, and the last. -/
theorem witness_StepRunsTheStepOperation :
    ({ State.reset with busy := true, t := 62 }.busy = true ∧ { State.reset with busy := true, t := 62 }.t ≠ 63) ∧
    ({ State.reset with busy := true, t := 63 }.busy = true ∧ { State.reset with busy := true, t := 63 }.t = 63) := by decide

theorem witness_IdleEngineHolds : State.reset.busy = false ∧ State.reset.inputs = [] := by decide

theorem witness_EveryStepAnswers :
    (withInputs doneE1 [.cmd 0x301, .rst]).busy = false ∧
    (withInputs doneE1 [.cmd 0x301, .rst]).inputs = .cmd 0x301 :: [.rst] := by decide

theorem witness_InitStartsAMessage :
    ∃ t v, exec .init doneE1 = .next t ∧ exec .init (accum 3 [1, 2, 3]) = .next v := ⟨_, _, rfl, rfl⟩

/-- FILL at both ends of its range. -/
theorem witness_FeedStoresOneByte :
    ((accum 0 []).phase = .accum ∧ (accum 0 []).len.toNat % 64 ≠ 63 ∧ (accum 0 []).buf.wf = true) ∧
    ((accum 62 (counting 62)).phase = .accum ∧ (accum 62 (counting 62)).len.toNat % 64 ≠ 63 ∧
      (accum 62 (counting 62)).buf.wf = true) := by decide

theorem witness_FeedCompletesTheBlock :
    (accum 127 (counting 63)).phase = .accum ∧ (accum 127 (counting 63)).len.toNat % 64 = 63 ∧
    (accum 127 (counting 63)).buf.wf = true := by decide

theorem witness_CountWrapsSilently :
    (accum 0xffffffffffffffff#64 []).phase = .accum ∧ (accum 0xffffffffffffffff#64 []).len.toNat = 2 ^ 64 - 1 := by decide

/-- Both commands and both phases. -/
theorem witness_FeedAndFinalNeedAccum :
    (Instr.final = .final ∨ ∃ v, Instr.final = .feed v) ∧ (Instr.feed 0xff#8 = .final ∨ ∃ v, Instr.feed 0xff#8 = .feed v) ∧
    State.reset.phase = .uninit ∧ doneE1.phase = .done := ⟨.inl rfl, .inr ⟨_, rfl⟩, rfl, rfl⟩

/-- FILL at both ends of the clause. -/
theorem witness_FinalOfAShortTail :
    ((accum 64 []).phase = .accum ∧ (accum 64 []).buf.wf = true ∧ (accum 64 []).fill.toNat ≤ 55) ∧
    ((accum 55 (counting 55)).phase = .accum ∧ (accum 55 (counting 55)).buf.wf = true ∧
      (accum 55 (counting 55)).fill.toNat ≤ 55) := by decide

/-- FILL at both ends of the clause. -/
theorem witness_FinalOfALongTail :
    ((accum 56 (counting 56)).phase = .accum ∧ (accum 56 (counting 56)).buf.wf = true ∧
      56 ≤ (accum 56 (counting 56)).fill.toNat) ∧
    ((accum 63 (counting 63)).phase = .accum ∧ (accum 63 (counting 63)).buf.wf = true ∧
      56 ≤ (accum 63 (counting 63)).fill.toNat) := by decide

theorem witness_BlockwisePaddingIsTheSame : (accum 60 (counting 64)).buf.wf = true := by decide

theorem witness_LengthFieldEndsTheBlock :
    (accum 0xffffffffffffffc0#64 [1]).phase = .accum ∧ (accum 0xffffffffffffffc0#64 [1]).buf.wf = true := by decide

/-- Both disjuncts of the first clause, and the second clause. -/
theorem witness_ErrorCodeIsSticky :
    (let s := withInputs { State.reset with err := .seqUninit } [.cmd 0x301];
      (∃ t, step s = .next t) ∧ s.err ≠ .clean ∧ s.inputs.head? ≠ some .rst) ∧
    (let s := { State.reset with err := .rsvdEnc, busy := true, t := 63, inputs := [.rst] };
      (∃ t, step s = .next t) ∧ s.err ≠ .clean ∧ s.busy = true) ∧
    (let s := withInputs { doneE1 with err := .seqDone } [.rst];
      (∃ t, step s = .next t) ∧ s.busy = false ∧ s.inputs.head? = some .rst) :=
  ⟨⟨⟨_, rfl⟩, by decide, by decide⟩, ⟨⟨_, rfl⟩, by decide, by decide⟩, ⟨⟨_, rfl⟩, by decide, by decide⟩⟩

/-- In both phases an error occurs. -/
theorem witness_AnErrorDropsTheCommand :
    (∃ t, exec .final State.reset = .next t ∧ t.err ≠ State.reset.err) ∧
    (∃ t, exec (.feed 0#8) doneE1 = .next t ∧ t.err ≠ doneE1.err) :=
  ⟨⟨_, rfl, by decide⟩, ⟨_, rfl, by decide⟩⟩

/-- An instruction of each case of the first clause, then the second and the third clause. -/
theorem witness_PhaseFollowsTheLifecycle :
    (∃ t, exec .init doneE1 = .next t) ∧ (∃ t, exec .final (accum 0 []) = .next t) ∧
    (∃ t, exec .final doneE1 = .next t) ∧
    (∃ t, step (withInputs doneE1 [.rst]) = .next t ∧ (withInputs doneE1 [.rst]).busy = false) ∧
    (∃ t, step (withInputs doneE1 [.cmd 0x3ff]) = .next t ∧ (withInputs doneE1 [.cmd 0x3ff]).busy = false ∧
      CmdWord.legal 0x3ff = false) :=
  ⟨⟨_, rfl⟩, ⟨_, rfl⟩, ⟨_, rfl⟩, ⟨_, rfl, rfl⟩, ⟨_, rfl, rfl, by decide⟩⟩

/-- Rounds at both ends of each clause. -/
theorem witness_NonlinearFunctionsBitwise :
    (15#6).toNat < 16 ∧ (16 ≤ (16#6).toNat ∧ (31#6).toNat < 32) ∧ (32 ≤ (32#6).toNat ∧ (47#6).toNat < 48) ∧
    48 ≤ (48#6).toNat ∧ 48 ≤ (63#6).toNat := by decide

theorem witness_RotationIsCyclic : 1 ≤ 1 ∧ 1 ≤ 31 ∧ 31 ≤ 31 ∧ 0 < 32 ∧ 31 < 32 := by decide

theorem witness_MessageWordsAreLittleEndian :
    (accum 0 (counting 64)).buf.wf = true ∧ (3 < 4 ∧ 0 < 4) ∧ (0#4 ≠ 15#4) := by decide

/-- A command that stores, and a step inside a compression. -/
theorem witness_BufferStaysCanonical :
    (CanonicalBuffer (withInputs (accum 5 (counting 64)) [.cmd 0x200]) ∧
      ∃ t, step (withInputs (accum 5 (counting 64)) [.cmd 0x200]) = .next t) ∧
    (CanonicalBuffer (accum 0 (counting 64)).startCompression ∧ ∃ t, step (accum 0 (counting 64)).startCompression = .next t) :=
  ⟨⟨by unfold CanonicalBuffer; decide, _, rfl⟩, ⟨by unfold CanonicalBuffer; decide, _, rfl⟩⟩

theorem witness_CommandsLeaveTheEngineReady :
    (Ready (withInputs (accum 63 []) [.cmd 0x2aa]) ∧ ∃ t, step (withInputs (accum 63 []) [.cmd 0x2aa]) = .next t) ∧
    ∃ t, exec .final (accum 63 []) = .next t := ⟨⟨rfl, _, rfl⟩, _, rfl⟩

/-- Both clauses. -/
theorem witness_OnlyThreeCommandsChangeTheData :
    ((∃ t, exec .ii63 doneE1 = .next t) ∧ Instr.ii63 ≠ .init ∧ Instr.ii63 ≠ .final ∧ ∀ v, Instr.ii63 ≠ .feed v) ∧
    ((∃ t, exec (.feed 1#8) doneE1 = .next t) ∧ Instr.feed 1#8 ≠ .init ∧ doneE1.phase ≠ .accum) :=
  ⟨⟨⟨_, rfl⟩, by decide, by decide, fun v => by simp⟩, ⟨⟨_, rfl⟩, by decide, by decide⟩⟩

/-- An engine that has accumulated three bytes; and an instruction of the third clause. -/
theorem witness_AccumulatingInvariants :
    Accumulated [1#8, 2#8, 3#8] (accum 3 [1#8, 2#8, 3#8]) ∧
    (Instr.nop ≠ .init ∧ Instr.nop ≠ .final ∧ ∀ v, Instr.nop ≠ .feed v) ∧
    ∃ t, exec .nop (accum 3 [1#8, 2#8, 3#8]) = .next t :=
  ⟨⟨rfl, by decide, by decide, rfl, by decide⟩, ⟨by decide, by decide, fun v => by simp⟩, _, rfl⟩

/-- Both clauses. -/
theorem witness_ChunkingDoesNotMatter :
    ([Instr.nop, .feed 1#8, .nop, .nop, .feed 2#8].filter (· ≠ .nop) = [1#8, 2#8].map .feed) ∧
    ∃ t, execAll ([1#8, 2#8].map .feed) (accum 0 []) = .next t := ⟨by decide, _, rfl⟩

/-- Two engines that differ in a stale byte, in the dead registers and in the events to come. -/
theorem witness_StaleBytesAreNeverRead :
    Agree (accum 1 [0x61#8, 0xaa#8]) { accum 1 [0x61#8, 0xbb#8] with t := 5, work := ⟨1, 2, 3, 4⟩ } ∧
    (accum 1 [0x61#8, 0xaa#8]).buf.wf = true ∧ (accum 1 [0x61#8, 0xbb#8]).buf.wf = true ∧
    (accum 1 [0x61#8, 0xaa#8]).buf ≠ (accum 1 [0x61#8, 0xbb#8]).buf :=
  ⟨⟨⟨rfl, rfl⟩, rfl, rfl, rfl, rfl, by decide⟩, by decide, by decide, by decide⟩

theorem witness_DigestHeldWhileDone :
    doneE1.phase = .done ∧ Instr.final ≠ .init ∧ ∃ t, exec .final doneE1 = .next t := ⟨rfl, by decide, _, rfl⟩

/-- Both clauses, and the last byte. -/
theorem witness_DigestIsLittleEndianSerialization :
    State.reset.phase ≠ .done ∧ doneE1.phase = .done ∧ 15 < 16 := by decide

/-- Two engines with the same accumulators and bytes but other counts, errors and working registers. -/
theorem witness_CompressionDependsOnHAndBufOnly :
    (let s := accum 63 (counting 63)
     let t := { accum 127 (counting 64) with err := .seqUninit, work := ⟨1, 2, 3, 4⟩ }
     s.phase = .accum ∧ t.phase = .accum ∧ s.buf.wf = true ∧ t.buf.wf = true ∧ s.len.toNat % 64 = 63 ∧
      t.len.toNat % 64 = 63 ∧ s.h = t.h ∧ ∀ a, a < 63 → s.buf.read a = t.buf.read a) := by decide +kernel

end Sys2Proof.Tests
end

section
/-! SUPPORT. The proofs of the family 00_scope: the step level refines the compression function (O37), and left rotation (O31). -/

namespace Sys2Proof.Machine

/-! ### One step of the machine inside a compression -/

/-- The row a step index selects is the step operation of R96 at that index: one case per row of R104, in each of
which the literals of the row are the values of `g`, `S`, `K` and the round function. -/
theorem exec_decodeStep_eq (t : StepIndex) (s : State) :
    exec (decodeStep t) s = .next (s.setWork (stepAt (msgWord s.buf) t s.work)) := by
  obtain ⟨n, hn, rfl⟩ : ∃ n < 64, t = BitVec.ofNat 6 n := ⟨t.toNat, t.isLt, by simp⟩
  interval_cases n <;> rfl

/-- Inside a compression a step of the machine is the step operation at `T` and the sequencer's move (R93). -/
theorem step_of_busy {s : State} (hb : s.busy = true) :
    step s = .next (s.setWork (stepAt (msgWord s.buf) s.t s.work)).advance := by
  simp only [step, runNext, stepCompression, hb, if_true, exec_decodeStep_eq]

/-- Before the last step index the sequencer goes on to the next one (R93). -/
theorem advance_of_ne {s : State} (h : s.t ≠ 63) : s.advance = s.placeStep (s.t + 1) :=
  if_neg h

/-- After the last step index the sequencer ends the compression (R106). -/
theorem advance_of_eq {s : State} (h : s.t = 63) : s.advance = s.endCompression :=
  if_pos h

/-! ### The engine after `n` steps of a compression -/

/-- The engine inside the compression started in `s`, the steps below `n` done and step `n` the next. -/
def State.duringCompression (s : State) (n : Nat) : State :=
  (s.setWork (runSteps (msgWord s.buf) n s.h.toWork)).placeStep (BitVec.ofNat 6 n)

/-- A compression starts with no step done (R92). -/
theorem startCompression_eq (s : State) : s.startCompression = s.duringCompression 0 := rfl

/-- One step of the machine at step index `n`: the working registers of `n + 1` steps, and the sequencer's move. -/
theorem step_duringCompression {n : Nat} (s : State) :
    step (s.duringCompression n) =
      .next ((s.setWork (runSteps (msgWord s.buf) (n + 1) s.h.toWork)).placeStep (BitVec.ofNat 6 n)).advance :=
  step_of_busy rfl

/-- Below step 63 a step of the machine leads to the state with one more step done. -/
theorem step_duringCompression_of_lt {n : Nat} (hn : n < 63) (s : State) :
    step (s.duringCompression n) = .next (s.duringCompression (n + 1)) := by
  have hne : BitVec.ofNat 6 n ≠ 63 := by bv_omega
  rw [step_duringCompression, advance_of_ne hne, State.placeStep_t, State.duringCompression, BitVec.ofNat_add]
  rfl

/-- Up to step 63, `n` steps of the machine do `n` steps of the compression function. -/
theorem run_startCompression (s : State) (n : Nat) (hn : n ≤ 63) :
    core.run n s.startCompression = .next (s.duringCompression n) := by
  induction n with
  | zero => exact congrArg Host.Outcome.next (startCompression_eq s)
  | succ n ih => exact run_snoc core n (ih (by omega)) (step_duringCompression_of_lt (by omega) s)

/-- The 64th step does the last step of the compression function and ends the compression. -/
theorem run_startCompression_64 (s : State) :
    core.run 64 s.startCompression =
      .next ((s.setWork (runSteps (msgWord s.buf) 64 s.h.toWork)).placeStep 63).endCompression := by
  refine run_snoc core 63 (run_startCompression s 63 le_rfl) ?_
  exact (step_duringCompression s).trans (congrArg _ (advance_of_eq rfl))

/-- Settles O37: the run ends in the feed-forward of the 64 steps' working registers, which is `compressBlock`. -/
theorem sixtyFourStepsAreOneCompression : Obligations.SixtyFourStepsAreOneCompression := by
  intro s
  exact ⟨_, run_startCompression_64 s, by simp [compressBlock_eq], by simp⟩

/-! ### Left rotation -/

/-- By less than 32 places `rotl32` is the left rotation of bit vectors (R8). -/
theorem rotl32_eq_rotateLeft (x : Word) {n : Nat} (hn : n < 32) : rotl32 x n = x.rotateLeft n := by
  rw [rotl32, BitVec.rotateLeft_def, Nat.mod_eq_of_lt hn]

/-- A bit of a word rotated left by less than 32 places (R8). -/
theorem getLsbD_rotl32 (x : Word) {n i : Nat} (hn : n < 32) (hi : i < 32) :
    (rotl32 x n).getLsbD i = x.getLsbD ((i + 32 - n) % 32) := by
  rw [rotl32_eq_rotateLeft x hn, BitVec.getLsbD_rotateLeft, Nat.mod_eq_of_lt hn]
  by_cases hin : i < n
  · have : (i + 32 - n) % 32 = 32 - n + i := by omega
    simp [hin, this]
  · have : (i + 32 - n) % 32 = i - n := by omega
    simp [hin, hi, this]

/-- Every rotation amount of the table `S` lies between 4 and 23 (R103). -/
theorem rotAmount_bounds : ∀ t : StepIndex, 4 ≤ rotAmount t ∧ rotAmount t ≤ 23 := by decide

/-- Settles O31: bit by bit from the library's rotation, and the bounds from the table of S. -/
theorem rotationIsCyclic : Obligations.RotationIsCyclic :=
  ⟨fun x _ _ _ hn hi => getLsbD_rotl32 x (by omega) hi, rotAmount_bounds⟩

end Sys2Proof.Machine
end

section
/-! SUPPORT. The proofs of the family 10_state: the invariants of an accumulating engine (O38), indistinguishable engines
(O41), the lifecycle (O23), a step inside a compression (O8), the wrap of the count (O15), the status port (O44). -/

namespace Sys2Proof.Safety

open Sys2Proof.Machine

/-! ### The meanings of instructions -/

/-- An instruction other than INIT, FEED and FINAL writes at most the working registers (NOP writes them back as they
are), in every state. -/
theorem exec_eq_setWork_of_ne {i : Instr} (hinit : i ≠ .init) (hfinal : i ≠ .final) (hfeed : ∀ v, i ≠ .feed v)
    (s : State) : ∃ w, exec i s = .next (s.setWork w) := by
  obtain ⟨-, he⟩ | ⟨e, -⟩ | ⟨v, e, -⟩ | ⟨e, -⟩ | h := exec_cases i s
  · exact ⟨s.work, he⟩
  · exact absurd e hinit
  · exact absurd e (hfeed v)
  · exact absurd e hfinal
  · exact h

theorem exec_feed_of_accum {s : State} (h : s.phase = .accum) (v : Byte) :
    exec (.feed v) s = .next (s.absorb v) := by
  simp only [exec, execFeed, State.inAccum, h]

/-! ### Blocks of a byte sequence -/

theorem getD_drop (bytes : List Byte) (n k : Nat) : (bytes.drop n).getD k 0 = bytes.getD (n + k) 0 := by
  simp [List.getD_eq_getElem?_getD]

/-- The sixteen little-endian words of 64 bytes given by their position (R95). -/
def wordsOfBytes (f : Nat → Byte) (j : BitVec 4) : Word :=
  le32 (f (4 * j.toNat)) (f (4 * j.toNat + 1)) (f (4 * j.toNat + 2)) (f (4 * j.toNat + 3))

theorem blockWord_eq (b : List Byte) : blockWord b = wordsOfBytes fun k => b.getD k 0 := rfl

theorem msgWord_eq (m : Memory) : msgWord m = wordsOfBytes m.read := rfl

/-- The words depend on the first 64 bytes only. -/
theorem wordsOfBytes_congr {f g : Nat → Byte} (h : ∀ k < 64, f k = g k) : wordsOfBytes f = wordsOfBytes g := by
  funext j
  have hj := j.isLt
  unfold wordsOfBytes
  rw [h _ (by omega), h _ (by omega), h _ (by omega), h _ (by omega)]

/-- A block's message words are those of its 64 bytes. -/
theorem blockWord_congr {b c : List Byte} (h : ∀ k < 64, b.getD k 0 = c.getD k 0) : blockWord b = blockWord c := by
  rw [blockWord_eq, blockWord_eq, wordsOfBytes_congr h]

/-- A buffer that holds a block has its message words. -/
theorem msgWord_eq_blockWord {m : Memory} {b : List Byte} (h : ∀ k < 64, m.read k = b.getD k 0) :
    msgWord m = blockWord b := by
  rw [msgWord_eq, blockWord_eq, wordsOfBytes_congr h]

/-- The first `n` blocks are the first `64 * n` bytes. -/
theorem hashBlocks_congr {n : Nat} {bs cs : List Byte} (h : Accs) (heq : ∀ k < 64 * n, bs.getD k 0 = cs.getD k 0) :
    hashBlocks n h bs = hashBlocks n h cs := by
  induction n generalizing h bs cs with
  | zero => rfl
  | succ n ih =>
    rw [hashBlocks, hashBlocks, blockWord_congr fun k hk => heq k (by omega)]
    refine ih _ fun k hk => ?_
    rw [getD_drop, getD_drop, heq _ (by omega)]

/-- Bytes after the first `n` blocks have no part in their compression. -/
theorem hashBlocks_append {n : Nat} {bs : List Byte} (h : Accs) (hn : 64 * n ≤ bs.length) (cs : List Byte) :
    hashBlocks n h (bs ++ cs) = hashBlocks n h bs :=
  hashBlocks_congr h fun _ hk => List.getD_append _ _ _ _ (by omega)

/-- One more block is compressed after the others (R134). -/
theorem hashBlocks_succ (n : Nat) (h : Accs) (bs : List Byte) :
    hashBlocks (n + 1) h bs = compressBlock (hashBlocks n h bs) (blockWord (bs.drop (64 * n))) := by
  induction n generalizing h bs with
  | zero => rfl
  | succ n ih =>
    rw [hashBlocks, ih, List.drop_drop, show 64 + 64 * n = 64 * (n + 1) by omega]
    rfl

/-! ### What an engine has accumulated -/

section Accumulated
variable {msg : List Byte} {s : State} (hs : Accumulated msg s)
include hs

/-- The fill pointer is the message length modulo 64, however often the count has wrapped (R21). -/
theorem Accumulated.fill_toNat : s.fill.toNat = msg.length % 64 := by
  rw [Machine.fill_toNat, hs.count, BitVec.toNat_ofNat]
  omega

/-- With the next byte stored, the buffer holds the bytes of the message after its complete blocks. -/
theorem Accumulated.read_write_fill (v : Byte) {k : Nat} (hk : k ≤ msg.length % 64) :
    (s.buf.write s.fill.toNat v).read k = (msg ++ [v]).getD (64 * (msg.length / 64) + k) 0 := by
  rw [Memory.read_write hs.canonical, hs.fill_toNat]
  obtain rfl | hlt := Nat.eq_or_lt_of_le hk
  · rw [if_pos rfl, Nat.div_add_mod, List.getD_append_right _ _ _ _ le_rfl, Nat.sub_self]
    rfl
  · rw [if_neg hlt.ne, hs.valid k hlt, List.getD_append _ _ _ _ (by omega)]

/-- The byte that completes a block: its compression is the next in the chain (I1, R19). -/
theorem Accumulated.compress_full (v : Byte) (hfull : msg.length % 64 = 63) :
    compressBlock s.h (msgWord (s.buf.write s.fill.toNat v)) =
      hashBlocks (msg.length / 64 + 1) initAccs (msg ++ [v]) := by
  have hblock : msgWord (s.buf.write s.fill.toNat v) = blockWord ((msg ++ [v]).drop (64 * (msg.length / 64))) :=
    msgWord_eq_blockWord fun k hk => by rw [hs.read_write_fill v (by omega), getD_drop]
  rw [hblock, hashBlocks_succ, hashBlocks_append _ (by omega), hs.chaining]

/-- I1 after one more byte (R19): the chain grows exactly when the byte completes a block. -/
theorem Accumulated.absorb_h (v : Byte) :
    (s.absorb v).h = hashBlocks ((msg.length + 1) / 64) initAccs (msg ++ [v]) := by
  have hfill := hs.fill_toNat
  rw [State.absorb_h]
  by_cases hfull : s.fill = 63
  · have hmod : msg.length % 64 = 63 := by rw [← hfill, hfull]; rfl
    rw [if_pos hfull, hs.compress_full v hmod, show (msg.length + 1) / 64 = msg.length / 64 + 1 by omega]
  · have hmod : msg.length % 64 ≠ 63 := fun e => hfull (BitVec.eq_of_toNat_eq (hfill.trans e))
    rw [if_neg hfull, show (msg.length + 1) / 64 = msg.length / 64 by omega, hashBlocks_append _ (by omega),
      hs.chaining]

/-- One more byte absorbed is one more byte accumulated (R20). -/
theorem Accumulated.absorb (v : Byte) : Accumulated (msg ++ [v]) (s.absorb v) where
  phase := (State.absorb_phase v s).trans hs.phase
  canonical := absorb_wf v hs.canonical
  count := by rw [State.absorb_len, hs.count, List.length_append, BitVec.ofNat_add]; rfl
  chaining := by rw [hs.absorb_h, List.length_append]; rfl
  valid k hk := by
    rw [List.length_append, List.length_singleton] at hk ⊢
    rw [State.absorb_buf, hs.read_write_fill v (by omega), show (msg.length + 1) / 64 = msg.length / 64 by omega]

/-- The working registers have no part in what has been accumulated. -/
theorem Accumulated.setWork (w : WorkRegs) : Accumulated msg (s.setWork w) :=
  ⟨hs.phase, hs.canonical, hs.count, hs.chaining, hs.valid⟩

end Accumulated

/-- INIT starts with the empty message, whatever the state was (R20). -/
theorem accumulated_of_exec_init {s t : State} (ht : exec .init s = .next t) : Accumulated [] t := by
  cases ht
  exact ⟨rfl, Memory.wf_clear, rfl, rfl, fun _ hk => absurd hk (Nat.not_lt_zero _)⟩

/-- Settles O38: INIT establishes the invariants, absorbing a byte extends them, and every other instruction writes the
working registers only. -/
theorem accumulatingInvariants : Obligations.AccumulatingInvariants := by
  refine ⟨fun s => ⟨_, rfl, accumulated_of_exec_init (s := s) rfl⟩,
    fun msg s v hs => ⟨_, exec_feed_of_accum hs.phase v, hs.absorb v⟩,
    fun i msg s t hinit hfinal hfeed hs ht => ?_⟩
  obtain ⟨w, hw⟩ := exec_eq_setWork_of_ne hinit hfinal hfeed s
  cases hw.symm.trans ht
  exact hs.setWork w

/-! ### Indistinguishable engines -/

section Agree
variable {s t : State} (h : Agree s t)
include h

theorem Agree.fill_eq : s.fill = t.fill := congrArg (BitVec.extractLsb' 0 6) h.count

/-- Engines that agree show the same outputs (R38). -/
theorem Agree.sample_eq : s.sample = t.sample := by
  cases s
  cases t
  obtain ⟨⟨rfl, rfl⟩, rfl, rfl, rfl, -, -⟩ := h
  rfl

/-- INIT leaves no byte of the buffer valid and overwrites what else it does not keep (R77). -/
theorem Agree.exec_init : ∃ s' t', exec .init s = .next s' ∧ exec .init t = .next t' ∧ Agree s' t' :=
  ⟨_, _, rfl, rfl, h.ready, rfl, h.err, rfl, rfl, fun _ _ => rfl⟩

theorem Agree.raise (c : ErrCode) : Agree (s.raise c) (t.raise c) :=
  ⟨h.ready, h.phase, by rw [State.raise_err, State.raise_err, h.err], h.accs, h.count, h.valid⟩

theorem Agree.setPhase (p : Phase) : Agree (s.setPhase p) (t.setPhase p) :=
  ⟨h.ready, rfl, h.err, h.accs, h.count, h.valid⟩

/-- The working registers are dead between commands (R36). -/
theorem Agree.setWork (w x : WorkRegs) : Agree (s.setWork w) (t.setWork x) :=
  ⟨h.ready, h.phase, h.err, h.accs, h.count, h.valid⟩

/-- The phase check takes the same branch in both engines (R75). -/
theorem Agree.inAccum {body : State → State} (hbody : Agree (body s) (body t)) :
    Agree (s.inAccum body) (t.inAccum body) := by
  unfold State.inAccum
  rw [← h.phase]
  cases s.phase with
  | uninit => exact h.raise _
  | done => exact h.raise _
  | accum => exact hbody

variable (hs : s.buf.wf = true) (ht : t.buf.wf = true)
include hs ht

/-- With the next byte stored at `FILL`, one byte more is valid in both buffers. -/
theorem Agree.read_write_fill (v : Byte) {k : Nat} (hk : k ≤ s.fill.toNat) :
    (s.buf.write s.fill.toNat v).read k = (t.buf.write s.fill.toNat v).read k := by
  rw [Memory.read_write hs, Memory.read_write ht]
  obtain rfl | hlt := Nat.eq_or_lt_of_le hk
  · rw [if_pos rfl, if_pos rfl]
  · rw [if_neg hlt.ne, if_neg hlt.ne, h.valid k hlt]

/-- When the byte completes the block every byte of it is valid, so the compression reads no stale byte (R37). -/
theorem Agree.absorb_h (v : Byte) : (s.absorb v).h = (t.absorb v).h := by
  rw [State.absorb_h, State.absorb_h, ← h.fill_eq, ← h.accs]
  by_cases hfull : s.fill = 63
  · have hlast : s.fill.toNat = 63 := congrArg BitVec.toNat hfull
    have hblock : msgWord (s.buf.write s.fill.toNat v) = msgWord (t.buf.write s.fill.toNat v) :=
      msgWord_congr fun k hk => h.read_write_fill hs ht v (by omega)
    rw [if_pos hfull, if_pos hfull, hblock]
  · rw [if_neg hfull, if_neg hfull]

theorem Agree.absorb (v : Byte) : Agree (s.absorb v) (t.absorb v) where
  ready := by simpa using h.ready
  phase := by simpa using h.phase
  err := by simpa using h.err
  accs := h.absorb_h hs ht v
  count := by simp [h.count]
  valid k hk := by
    rw [absorb_fill_toNat] at hk
    rw [State.absorb_buf, State.absorb_buf, ← h.fill_eq]
    exact h.read_write_fill hs ht v (by omega)

end Agree

/-- Engines that agree still do after the same bytes. -/
theorem Agree.absorbAll (vs : List Byte) {s t : State} (h : Agree s t) (hs : s.buf.wf = true) (ht : t.buf.wf = true) :
    Agree (s.absorbAll vs) (t.absorbAll vs) := by
  induction vs generalizing s t with
  | nil => exact h
  | cons v vs ih => exact ih (h.absorb hs ht v) (absorb_wf v hs) (absorb_wf v ht)

/-- The padding is a sequence of bytes that `FILL` and `LEN` alone determine (R120). -/
theorem Agree.pad {s t : State} (h : Agree s t) (hs : s.buf.wf = true) (ht : t.buf.wf = true) :
    Agree s.pad t.pad := by
  rw [pad_eq, pad_eq, ← h.fill_eq, ← h.count]
  exact h.absorbAll _ hs ht

/-- Every instruction answers in engines that agree, with next states that agree. -/
theorem Agree.exec_agree {s t : State} (h : Agree s t) (hs : s.buf.wf = true) (ht : t.buf.wf = true) (i : Instr) :
    ∃ s' t', exec i s = .next s' ∧ exec i t = .next t' ∧ Agree s' t' := by
  by_cases hinit : i = .init
  · subst hinit
    exact h.exec_init
  by_cases hfinal : i = .final
  · subst hfinal
    exact ⟨_, _, rfl, rfl, h.inAccum ((h.pad hs ht).setPhase .done)⟩
  by_cases hfeed : ∃ v, i = .feed v
  · obtain ⟨v, rfl⟩ := hfeed
    exact ⟨_, _, rfl, rfl, h.inAccum (h.absorb hs ht v)⟩
  obtain ⟨w, hw⟩ := exec_eq_setWork_of_ne hinit hfinal (not_exists.1 hfeed) s
  obtain ⟨x, hx⟩ := exec_eq_setWork_of_ne hinit hfinal (not_exists.1 hfeed) t
  exact ⟨_, _, hw, hx, h.setWork w x⟩

/-- Settles O41: agreement is kept by every instruction, and engines that agree show the same outputs. -/
theorem staleBytesAreNeverRead : Obligations.StaleBytesAreNeverRead := by
  intro i s t h hs ht
  obtain ⟨s', t', hs', ht', h'⟩ := h.exec_agree hs ht i
  exact ⟨s', t', hs', ht', h', h'.sample_eq⟩

/-! ### The lifecycle -/

/-- Keeping the phase is allowed to every instruction but INIT, and to FINAL outside ACCUM (R23). -/
theorem phaseMay_self {i : Instr} {p : Phase} (hinit : i ≠ .init) (hfinal : i = .final → p ≠ .accum) :
    PhaseMay i p p := by
  unfold PhaseMay
  split
  · exact absurd rfl hinit
  · exact absurd rfl (hfinal rfl)
  · rfl

/-- The phase check moves the phase only through the body it guards (R75). -/
theorem inAccum_phase (body : State → State) (s : State) :
    (s.phase ≠ .accum ∧ (s.inAccum body).phase = s.phase) ∨
    (s.phase = .accum ∧ (s.inAccum body).phase = (body s).phase) := by
  obtain ⟨hp, he⟩ | ⟨hp, he⟩ | ⟨hp, he⟩ := inAccum_cases body s
  · exact .inl ⟨by simp [hp], by simp [he]⟩
  · exact .inl ⟨by simp [hp], by simp [he]⟩
  · exact .inr ⟨hp, by rw [he]⟩

/-- Every instruction moves the phase as the lifecycle table allows (R23). -/
theorem phaseMay_of_exec {i : Instr} {s t : State} (ht : exec i s = .next t) : PhaseMay i s.phase t.phase := by
  by_cases hinit : i = .init
  · subst hinit
    cases ht
    rfl
  by_cases hfinal : i = .final
  · subst hfinal
    cases ht
    obtain ⟨hp, he⟩ | ⟨hp, he⟩ := inAccum_phase (fun s => s.pad.setPhase .done) s
    · rw [he]
      exact phaseMay_self hinit fun _ => hp
    · rw [he, hp]
      rfl
  by_cases hfeed : ∃ v, i = .feed v
  · obtain ⟨v, rfl⟩ := hfeed
    cases ht
    have he : (s.inAccum (State.absorb v)).phase = s.phase := by
      obtain ⟨-, he⟩ | ⟨-, he⟩ := inAccum_phase (State.absorb v) s
      · exact he
      · exact he.trans (State.absorb_phase v s)
    rw [he]
    exact phaseMay_self hinit fun e => absurd e hfinal
  obtain ⟨w, hw⟩ := exec_eq_setWork_of_ne hinit hfinal (not_exists.1 hfeed) s
  cases hw.symm.trans ht
  exact phaseMay_self hinit fun e => absurd e hfinal

/-- The decoder refuses a word that is not legal (R63). -/
theorem decodeCmd_of_not_legal {w : CmdWord} (h : CmdWord.legal w = false) : decodeCmd w = .error (.reserved w) := by
  simp only [CmdWord.legal, Bool.or_eq_false_iff, beq_eq_false_iff_ne] at h
  obtain ⟨hop, hdata⟩ := h
  exact (if_neg hop).trans (if_pos hdata)

/-- A reset event between commands (R157). -/
theorem step_of_rst {s : State} {rest : List Input} (hb : s.busy = false) (hi : s.inputs = .rst :: rest) :
    step s = .next s.pop.hardReset := by
  simp [step, runNext, hb, hi]

/-- A reserved word between commands raises RSVD_ENC, whatever the phase (R141). -/
theorem step_of_reserved {s : State} {w : CmdWord} {rest : List Input} (hb : s.busy = false)
    (hi : s.inputs = .cmd w :: rest) (hw : CmdWord.legal w = false) : step s = .next (s.pop.raise .rsvdEnc) := by
  simp [step, runNext, stepCommand, hb, hi, decodeCmd_of_not_legal hw]

/-- Settles O23: by the instruction, and by the two events between commands that are no instruction. -/
theorem phaseFollowsTheLifecycle : Obligations.PhaseFollowsTheLifecycle := by
  refine ⟨fun i s t ht => phaseMay_of_exec ht, fun s t rest hb hi ht => ?_, fun s t w rest hb hi hw ht => ?_⟩
  · cases (step_of_rst hb hi).symm.trans ht
    rfl
  · cases (step_of_reserved hb hi hw).symm.trans ht
    rfl

/-! ### A step inside a compression -/

/-- Inside a compression, before its last step, the sequencer moves the step index and nothing else (R93). -/
theorem advance_of_busy_of_ne {s : State} (hb : s.busy = true) (h : s.t ≠ 63) :
    s.advance = { s with t := s.t + 1 } := by
  rw [advance_of_ne h, State.placeStep, ← hb]

/-- Settles O8: the row writes the working registers, then the sequencer moves on or ends the compression. -/
theorem stepRunsTheStepOperation : Obligations.StepRunsTheStepOperation := by
  intro s hb
  refine ⟨_, exec_decodeStep_eq s.t s, fun hne => ?_, fun heq => ?_⟩ <;> rw [step_of_busy hb]
  · exact congrArg _ (advance_of_busy_of_ne hb hne)
  · exact ⟨_, congrArg _ (advance_of_eq heq), by simp [Accs.addWork]⟩

/-! ### The wrap of the count -/

/-- Settles O15: the byte that wraps the count is the 64th of its block. -/
theorem countWrapsSilently : Obligations.CountWrapsSilently := by
  intro s v hphase hlen
  have hfull : s.fill = 63 := BitVec.eq_of_toNat_eq (by rw [fill_toNat, hlen]; rfl)
  have hmax : s.len = BitVec.ofNat 64 (2 ^ 64 - 1) := BitVec.eq_of_toNat_eq hlen
  refine ⟨_, exec_feed_of_accum hphase v, ?_, State.absorb_err v s, (State.absorb_phase v s).trans hphase, ?_⟩
  · rw [State.absorb_len, hmax]
    rfl
  · rw [State.absorb_h, if_pos hfull, hfull]
    rfl

/-! ### The status port -/

/-- Bits 1:0 of the status are the code of the phase (R27). -/
theorem status_phase (s : State) : s.status.extractLsb' 0 2 = s.phase.code :=
  BitVec.extractLsb'_append_eq_right

/-- Bits 3:2 of the status are the code of the error (R27). -/
theorem status_err (s : State) : s.status.extractLsb' 2 2 = s.err.code :=
  BitVec.extractLsb'_append_eq_left

/-- Only NONE has the error code 0 (R24). -/
theorem errCode_code_eq_zero (e : ErrCode) : e.code = 0 ↔ e = .clean := by
  cases e <;> decide

/-- Only DONE has the phase code 2 (R22). -/
theorem phase_code_eq_two (p : Phase) : p.code = 2 ↔ p = .done := by
  cases p <;> decide

/-- Settles O44: the two fields of the status are the codes of PHASE and ERRCODE, which tell DONE and NONE apart from
the others. -/
theorem statusShowsTheRegisters : Obligations.StatusShowsTheRegisters := by
  intro s
  rw [status_phase, status_err]
  refine ⟨?_, ?_, ?_, ?_, ?_⟩
  · cases s.phase <;> rfl
  · cases s.err <;> rfl
  · rw [State.errFlag, decide_eq_true_iff, ne_eq, ne_eq, errCode_code_eq_zero]
  · rw [State.digestValid, decide_eq_true_iff, phase_code_eq_two]
  · cases hb : s.busy <;> simp [State.sample, State.cmdReady, hb]

end Sys2Proof.Safety
end

section
/-! SUPPORT. The proofs of the family 20_memory: the canonical buffer (O33), message words as views of it (O32), the
engine ready between commands (O35), the frame of the commands (O36). -/

namespace Sys2Proof.Safety

open Sys2Proof.Machine

/-! ### What every instruction keeps -/

/-- What every instruction keeps: whether a compression is in progress, the events to come, and the canonical form of
the buffer. -/
structure ExecKeeps (s t : State) : Prop where
  busy : t.busy = s.busy
  inputs : t.inputs = s.inputs
  canonical : CanonicalBuffer s → CanonicalBuffer t

theorem execKeeps_of_dataOnly {s t : State} (h : DataOnly s t) : ExecKeeps s t :=
  ⟨h.busy, h.inputs, h.canonical⟩

theorem raise_execKeeps (c : ErrCode) (s : State) : ExecKeeps s (s.raise c) := ⟨rfl, rfl, id⟩

theorem setWork_execKeeps (w : WorkRegs) (s : State) : ExecKeeps s (s.setWork w) := ⟨rfl, rfl, id⟩

/-- INIT needs no premise for the buffer: it clears it (R77). -/
theorem initialize_execKeeps (s : State) : ExecKeeps s s.initialize := ⟨rfl, rfl, fun _ => Memory.wf_clear⟩

/-- The effect of FINAL in ACCUM: the padding, then the phase alone (R83). -/
theorem final_execKeeps (s : State) : ExecKeeps s (s.pad.setPhase .done) :=
  have h := pad_dataOnly s
  ⟨h.busy, h.inputs, h.canonical⟩

/-- Outside ACCUM the phase check drops the command with a protocol error (R75, R137). -/
theorem inAccum_eq_raise {s : State} (h : s.phase ≠ .accum) (body : State → State) :
    ∃ c, s.inAccum body = s.raise c := by
  obtain ⟨-, he⟩ | ⟨-, he⟩ | ⟨hp, -⟩ := inAccum_cases body s
  · exact ⟨_, he⟩
  · exact ⟨_, he⟩
  · exact absurd hp h

theorem inAccum_execKeeps {body : State → State} {s : State} (h : ExecKeeps s (body s)) :
    ExecKeeps s (s.inAccum body) := by
  obtain ⟨-, he⟩ | ⟨-, he⟩ | ⟨-, he⟩ := inAccum_cases body s <;> rw [he]
  · exact raise_execKeeps _ s
  · exact raise_execKeeps _ s
  · exact h

/-- Every instruction keeps its frame, in every state. -/
theorem execKeeps_of_exec {i : Instr} {s t : State} (ht : exec i s = .next t) : ExecKeeps s t := by
  obtain ⟨-, he⟩ | ⟨-, he⟩ | ⟨v, -, he⟩ | ⟨-, he⟩ | ⟨w, he⟩ := exec_cases i s <;> cases he.symm.trans ht
  · exact execKeeps_of_dataOnly (DataOnly.refl s)
  · exact initialize_execKeeps s
  · exact inAccum_execKeeps (execKeeps_of_dataOnly (absorb_dataOnly v s))
  · exact inAccum_execKeeps (final_execKeeps s)
  · exact setWork_execKeeps w s

/-! ### The canonical buffer -/

/-- The sequencer does not touch the buffer (R90). -/
theorem advance_buf (s : State) : s.advance.buf = s.buf := by
  unfold State.advance
  split <;> simp

/-- Settles O33: a step operation and the sequencer leave the buffer alone, a reset event fills it byte by byte, and an
instruction keeps its canonical form. -/
theorem bufferStaysCanonical : Obligations.BufferStaysCanonical := by
  intro s t hs ht
  obtain ⟨-, w, he⟩ | ⟨-, -, he⟩ | ⟨-, -, he⟩ | ⟨-, w, rest, -, ⟨i, -, he⟩ | ⟨-, he⟩⟩ := step_cases s
  · cases he.symm.trans ht
    rwa [CanonicalBuffer, advance_buf]
  · cases he.symm.trans ht
    exact hs
  · cases he.symm.trans ht
    rw [CanonicalBuffer, State.hardReset_buf]
    exact Memory.wf_freeBuf _
  · exact (execKeeps_of_exec (he.symm.trans ht)).canonical hs
  · cases he.symm.trans ht
    exact hs

/-! ### The engine between commands -/

/-- A step from a state between commands ends between commands (R29). -/
theorem ready_of_step {s t : State} (hs : Ready s) (ht : step s = .next t) : Ready t := by
  obtain ⟨hb, -⟩ | ⟨-, -, he⟩ | ⟨-, -, he⟩ | ⟨-, w, rest, -, ⟨i, -, he⟩ | ⟨-, he⟩⟩ := step_cases s
  · exact absurd (hb.symm.trans hs) (by decide)
  · cases he.symm.trans ht
    exact hs
  · cases he.symm.trans ht
    rfl
  · exact (execKeeps_of_exec (he.symm.trans ht)).busy.trans hs
  · cases he.symm.trans ht
    exact hs

/-- Settles O35: no instruction moves `busy`, and between commands no step starts a compression of its own. -/
theorem commandsLeaveTheEngineReady : Obligations.CommandsLeaveTheEngineReady :=
  ⟨fun _ _ => ready_of_step, fun _ _ _ ht => (execKeeps_of_exec ht).busy⟩

/-! ### The frame of the commands -/

/-- Outside ACCUM an instruction other than INIT raises an error or writes the working registers, and nothing else. -/
theorem exec_outside_accum {i : Instr} {s : State} (hinit : i ≠ .init) (hp : s.phase ≠ .accum) :
    (∃ c, exec i s = .next (s.raise c)) ∨ ∃ w, exec i s = .next (s.setWork w) := by
  obtain ⟨-, he⟩ | ⟨e, -⟩ | ⟨v, -, he⟩ | ⟨-, he⟩ | h := exec_cases i s
  · exact .inr ⟨s.work, he⟩
  · exact absurd e hinit
  · obtain ⟨c, hc⟩ := inAccum_eq_raise hp (State.absorb v)
    exact .inl ⟨c, hc ▸ he⟩
  · obtain ⟨c, hc⟩ := inAccum_eq_raise hp fun s => s.pad.setPhase .done
    exact .inl ⟨c, hc ▸ he⟩
  · exact .inr h

/-- Settles O36: the other instructions write the working registers only, and outside ACCUM FEED and FINAL write
at most `ERRCODE`. -/
theorem onlyThreeCommandsChangeTheData : Obligations.OnlyThreeCommandsChangeTheData := by
  refine ⟨fun i s t ht hinit hfinal hfeed => ?_, fun i s t ht hinit hp => ?_⟩
  · obtain ⟨w, he⟩ := exec_eq_setWork_of_ne hinit hfinal hfeed s
    cases he.symm.trans ht
    exact ⟨rfl, rfl⟩
  · obtain ⟨c, he⟩ | ⟨w, he⟩ := exec_outside_accum hinit hp <;> cases he.symm.trans ht
    · exact ⟨State.raise_len c s, State.raise_h c s, State.raise_buf c s, State.raise_phase c s⟩
    · exact ⟨State.setWork_len w s, State.setWork_h w s, State.setWork_buf w s, State.setWork_phase w s⟩

/-! ### Message words as views of the buffer -/

/-- The value of a little-endian word of four bytes (R9). -/
theorem le32_toNat (b0 b1 b2 b3 : Byte) :
    (le32 b0 b1 b2 b3).toNat = b0.toNat + 2 ^ 8 * b1.toNat + 2 ^ 16 * b2.toNat + 2 ^ 24 * b3.toNat := by
  have h0 := b0.isLt
  have h1 := b1.isLt
  have h2 := b2.isLt
  simp only [le32, BitVec.toNat_append]
  rw [← Nat.shiftLeft_add_eq_or_of_lt h0, ← Nat.shiftLeft_add_eq_or_of_lt h1, ← Nat.shiftLeft_add_eq_or_of_lt h2]
  omega

/-- The `l`-th byte of a little-endian word: each lower byte is dropped in turn (R9). -/
theorem le32_extractLsb' (f : Nat → Byte) {l : Nat} (hl : l < 4) :
    (le32 (f 0) (f 1) (f 2) (f 3)).extractLsb' (8 * l) 8 = f l := by
  unfold le32
  interval_cases l
  · exact BitVec.extractLsb'_append_eq_right
  · rw [BitVec.extractLsb'_append_eq_of_le (by decide)]
    exact BitVec.extractLsb'_append_eq_right
  · rw [BitVec.extractLsb'_append_eq_of_le (by decide), BitVec.extractLsb'_append_eq_of_le (by decide)]
    exact BitVec.extractLsb'_append_eq_right
  · rw [BitVec.extractLsb'_append_eq_of_le (by decide), BitVec.extractLsb'_append_eq_of_le (by decide),
      BitVec.extractLsb'_append_eq_of_le (by decide)]
    exact BitVec.extractLsb'_eq_self

/-- Byte `l` of message word `j` is the byte of the buffer at `4j + l` (R43, R95). -/
theorem msgWord_extractLsb' (m : Memory) (j : BitVec 4) {l : Nat} (hl : l < 4) :
    (msgWord m j).extractLsb' (8 * l) 8 = m.read (4 * j.toNat + l) :=
  le32_extractLsb' (fun l => m.read (4 * j.toNat + l)) hl

/-- A message word depends on its four bytes only (R95). -/
theorem msgWord_apply_congr {m n : Memory} {j : BitVec 4}
    (h : ∀ l < 4, m.read (4 * j.toNat + l) = n.read (4 * j.toNat + l)) : msgWord m j = msgWord n j := by
  unfold msgWord Memory.readWord
  rw [show m.read (4 * j.toNat) = n.read (4 * j.toNat) from h 0 (by decide), h 1 (by decide), h 2 (by decide),
    h 3 (by decide)]

/-- Settles O32: byte `l` of word `j` is `BUF[4j + l]`, and a read after a write tells which bytes change. -/
theorem messageWordsAreLittleEndian : Obligations.MessageWordsAreLittleEndian := by
  intro m hm j
  refine ⟨le32_toNat _ _ _ _, fun k l v hk hl => ⟨?_, fun i hij => msgWord_apply_congr fun n hn => ?_⟩⟩
  · rw [msgWord_extractLsb' _ j hl, msgWord_extractLsb' _ j hl, Memory.read_write hm]
    simp only [Nat.add_left_cancel_iff]
  · have hne : i.toNat ≠ j.toNat := fun e => hij (BitVec.eq_of_toNat_eq e)
    rw [Memory.read_write hm, if_neg (by omega)]

end Sys2Proof.Safety
end

section
/-! SUPPORT. The proofs of the family 30_encoding: decoding and encoding are inverse to each other (O5), reserved words
(O4), the fields of a command word (O3), words written out bit by bit (O6). -/

namespace Sys2Proof.Safety

open Sys2Proof.Machine

/-! ### The decoder of command words -/

/-- A reserved word has an opcode other than FEED and an operand other than 0 (R63). -/
theorem legal_eq_false_iff (w : CmdWord) : CmdWord.legal w = false ↔ cmdOp w ≠ 0b10#2 ∧ cmdData w ≠ 0 := by
  simp only [CmdWord.legal, Bool.or_eq_false_iff, beq_eq_false_iff_ne]
  rfl

/-- A word with the opcode of FEED decodes to FEED of its operand field (R62, R64). -/
theorem decodeCmd_of_cmdOp_feed {w : CmdWord} (h : cmdOp w = 0b10#2) : decodeCmd w = .ok (.feed (cmdData w)) :=
  if_pos h

/-- A word with the opcode of FEED over a byte decodes to FEED of that byte (R62, R64). -/
theorem decodeCmd_feed (v : Byte) : decodeCmd (0b10#2 ++ v) = .ok (.feed v) := by
  rw [decodeCmd_of_cmdOp_feed (opField_append _ v), cmdData, dataField_append]

/-- A command word is reserved, or it is the word of a command and decodes to it (R61, R63, R64). -/
theorem decodeCmd_cases (w : CmdWord) :
    (CmdWord.legal w = false ∧ decodeCmd w = .error (.reserved w)) ∨
    ∃ i, encode i = .cmd w ∧ decodeCmd w = .ok i := by
  have hw := append_fields w
  by_cases hfeed : cmdOp w = 0b10#2
  · refine .inr ⟨.feed (cmdData w), congrArg Code.cmd ?_, decodeCmd_of_cmdOp_feed hfeed⟩
    rw [← hfeed, hw]
  by_cases hdata : cmdData w = 0
  · rw [hdata] at hw
    generalize cmdOp w = op at hw hfeed
    subst hw
    obtain rfl | rfl | rfl : op = 0b00#2 ∨ op = 0b01#2 ∨ op = 0b11#2 := by bv_omega
    · exact .inr ⟨.nop, rfl, rfl⟩
    · exact .inr ⟨.init, rfl, rfl⟩
    · exact .inr ⟨.final, rfl, rfl⟩
  · have hlegal : CmdWord.legal w = false := (legal_eq_false_iff w).2 ⟨hfeed, hdata⟩
    exact .inl ⟨hlegal, decodeCmd_of_not_legal hlegal⟩

/-- The decoder refuses exactly the words that are not legal (R63). -/
theorem decodeCmd_eq_error_iff (w : CmdWord) :
    decodeCmd w = .error (.reserved w) ↔ CmdWord.legal w = false := by
  refine ⟨fun h => ?_, decodeCmd_of_not_legal⟩
  obtain ⟨hlegal, -⟩ | ⟨i, -, hi⟩ := decodeCmd_cases w
  · exact hlegal
  · cases hi.symm.trans h

/-! ### The decoder and the encoder -/

/-- The word of an instruction decodes to it (R61, R67). -/
theorem decode_encode (i : Instr) : decode (encode i) = .ok i := by
  cases i
  case feed v => exact decodeCmd_feed v
  all_goals rfl

/-- A step index is the word of the row it selects (R67). -/
theorem encode_decodeStep : ∀ t : StepIndex, encode (decodeStep t) = .step t := by
  decide +kernel

/-- A word that decodes to an instruction is the word of that instruction (R64, R67). -/
theorem eq_encode_of_decode {i : Instr} {c : Code} (h : decode c = .ok i) : c = encode i := by
  cases c with
  | cmd w =>
    obtain ⟨-, he⟩ | ⟨j, hj, he⟩ := decodeCmd_cases w <;> cases he.symm.trans h
    exact hj.symm
  | step t =>
    cases h
    exact (encode_decodeStep t).symm

/-- Settles O5: the decoder inverts the encoder, and a word it accepts is the word of what it answers. -/
theorem decodeAndEncodeAgree : Obligations.DecodeAndEncodeAgree :=
  fun i _ => ⟨eq_encode_of_decode, fun h => h ▸ decode_encode i⟩

/-! ### Reserved words -/

/-- Of the 1024 command words, 3 times 255 are reserved (R63). -/
theorem reserved_count : ((List.range 1024).filter fun n => !CmdWord.legal (BitVec.ofNat 10 n)).length = 765 := by
  decide +kernel

/-- Settles O4: the reserved words counted, told by their fields and by the decoder, and the step on one. -/
theorem reservedWordsRaise : Obligations.ReservedWordsRaise := by
  refine ⟨reserved_count, legal_eq_false_iff, decodeCmd_eq_error_iff, fun s w rest hw hb hi => ?_⟩
  rw [step_of_reserved hb hi hw, State.raise, State.pop, hi, List.tail_cons]

/-! ### The fields of a command word as numbers -/

/-- The opcode field is the word divided by 256 (R60). -/
theorem cmdOp_toNat (w : CmdWord) : (cmdOp w).toNat = w.toNat / 256 := by
  have hw := w.isLt
  rw [cmdOp, BitVec.extractLsb'_toNat, Nat.shiftRight_eq_div_pow]
  omega

/-- The operand field is the remainder of the word by 256 (R60). -/
theorem cmdData_eq_ofNat (w : CmdWord) : cmdData w = BitVec.ofNat 8 (w.toNat % 256) := by
  apply BitVec.eq_of_toNat_eq
  rw [cmdData, BitVec.extractLsb'_toNat, BitVec.toNat_ofNat]
  simp

/-- Settles O3: FEED and the reserved words by their fields; the other three commands have one word each. -/
theorem decodeFollowsTheFields : Obligations.DecodeFollowsTheFields := by
  intro w
  refine ⟨fun hop => ?_, fun hop hdata => ?_, fun h => ?_, fun h => ?_, fun h => ?_⟩
  · rw [← cmdData_eq_ofNat]
    exact decodeCmd_of_cmdOp_feed (BitVec.eq_of_toNat_eq ((cmdOp_toNat w).trans hop))
  · refine decodeCmd_of_not_legal ((legal_eq_false_iff w).2 ⟨fun e => hop ?_, fun e => hdata ?_⟩)
    · rw [← cmdOp_toNat, e]
      rfl
    · have hmod := congrArg BitVec.toNat ((cmdData_eq_ofNat w).symm.trans e)
      simpa using hmod
  · exact (BitVec.eq_of_toNat_eq h : w = 0x000#10) ▸ decode_encode .nop
  · exact (BitVec.eq_of_toNat_eq h : w = 0x100#10) ▸ decode_encode .init
  · exact (BitVec.eq_of_toNat_eq h : w = 0x300#10) ▸ decode_encode .final

/-- Settles O6: each of the words is the one the encoder gives the instruction. -/
theorem writtenOutWordsDecode : Obligations.WrittenOutWordsDecode :=
  ⟨decode_encode .nop, decode_encode .init, decode_encode (.feed 0x61), decode_encode .final,
    decode_encode .ff15, decode_encode .gg16, decode_encode .hh42, decode_encode .ii63⟩

end Sys2Proof.Safety
end

section
/-! SUPPORT. The proofs of the family 40_commands: every instruction and step answers (O10), NOP in a sequence (O11) and
chunking (O40), INIT (O12), FEED inside a block and at its end (O13, O14), commands outside ACCUM (O16), the step on a
command word (O7). -/

namespace Sys2Proof.Safety

open Sys2Proof.Machine

/-! ### A step on a command word -/

/-- The event taken is the first one (R29). -/
theorem pop_eq_of_cons {s : State} {x : Input} {rest : List Input} (hi : s.inputs = x :: rest) :
    s.pop = { s with inputs := rest } := by
  rw [State.pop, hi, List.tail_cons]

/-- A command word between commands is decoded and executed with its event taken (R75). -/
theorem step_of_decodeCmd {s : State} {w : CmdWord} {rest : List Input} {i : Instr} (hb : s.busy = false)
    (hi : s.inputs = .cmd w :: rest) (hw : decodeCmd w = .ok i) : step s = exec i s.pop := by
  simp [step, runNext, stepCommand, hb, hi, hw]

/-- Settles O7: the step on a word that decodes, with the taken event written out. -/
theorem stepRunsTheCommand : Obligations.StepRunsTheCommand := by
  intro s w rest i hb hi hw
  rw [step_of_decodeCmd hb hi hw, pop_eq_of_cons hi]

/-! ### Every instruction and every step answers -/

/-- Every instruction answers a next state, in every state (R87). -/
theorem exists_exec_eq_next (i : Instr) (s : State) : ∃ t, exec i s = .next t := by
  obtain ⟨-, he⟩ | ⟨-, he⟩ | ⟨v, -, he⟩ | ⟨-, he⟩ | ⟨w, he⟩ := exec_cases i s <;> exact ⟨_, he⟩

/-- Every step answers a next state, inside a compression, idle, at a reset and at any command word (R135). -/
theorem exists_step_eq_next (s : State) : ∃ t, step s = .next t := by
  obtain ⟨-, w, he⟩ | ⟨-, -, he⟩ | ⟨-, -, he⟩ | ⟨-, w, rest, -, ⟨i, -, he⟩ | ⟨-, he⟩⟩ := step_cases s
  · exact ⟨_, he⟩
  · exact ⟨_, he⟩
  · exact ⟨_, he⟩
  · rw [he]
    exact exists_exec_eq_next i s.pop
  · exact ⟨_, he⟩

/-- One step takes a command word, reserved or not, from the events (R29): neither an instruction nor a raised error
touches the events after it. -/
theorem inputs_of_step_cmd {s t : State} {w : CmdWord} {rest : List Input} (hb : s.busy = false)
    (hi : s.inputs = .cmd w :: rest) (ht : step s = .next t) : t.inputs = rest := by
  have hpop : s.pop.inputs = rest := congrArg State.inputs (pop_eq_of_cons hi)
  obtain ⟨hlegal, -⟩ | ⟨i, -, hd⟩ := decodeCmd_cases w
  · cases (step_of_reserved hb hi hlegal).symm.trans ht
    exact hpop
  · exact (execKeeps_of_exec ((step_of_decodeCmd hb hi hd).symm.trans ht)).inputs.trans hpop

/-- Settles O10: `exec` and `step` answer by their cases, and a step takes the command word it runs. -/
theorem everyStepAnswers : Obligations.EveryStepAnswers := by
  refine ⟨exists_exec_eq_next, exists_step_eq_next, fun s w rest hb hi => ?_⟩
  obtain ⟨t, ht⟩ := exists_step_eq_next s
  exact ⟨t, ht, inputs_of_step_cmd hb hi ht⟩

/-! ### Sequences of instructions -/

/-- An instruction that answers hands its next state to the rest of the sequence. -/
theorem execAll_cons_of_next {i : Instr} {s t : State} (h : exec i s = .next t) (is : List Instr) :
    execAll (i :: is) s = execAll is t := by
  simp only [execAll, h]

/-- A sequence that answers hands its last state to the sequence after it (R82). -/
theorem execAll_append_of_next {is : List Instr} {s t : State} (h : execAll is s = .next t) (js : List Instr) :
    execAll (is ++ js) s = execAll js t := by
  induction is generalizing s with
  | nil =>
    cases h
    rfl
  | cons i is ih =>
    obtain ⟨u, hu⟩ := exists_exec_eq_next i s
    rw [execAll_cons_of_next hu] at h
    rw [List.cons_append, execAll_cons_of_next hu, ih h]

/-- The NOPs of a sequence have no part in its outcome (R76). -/
theorem execAll_filter_ne_nop (is : List Instr) (s : State) : execAll (is.filter (· ≠ .nop)) s = execAll is s := by
  induction is generalizing s with
  | nil => rfl
  | cons i is ih =>
    by_cases hi : i = .nop
    · subst hi
      exact ih s
    · obtain ⟨u, hu⟩ := exists_exec_eq_next i s
      have hkeep : (i :: is).filter (· ≠ .nop) = i :: is.filter (· ≠ .nop) :=
        List.filter_cons_of_pos (decide_eq_true hi)
      rw [hkeep, execAll_cons_of_next hu, execAll_cons_of_next hu, ih]

/-- Sequences that differ in NOPs only have the same outcome (R76). -/
theorem execAll_congr_filter {is js : List Instr} (h : is.filter (· ≠ .nop) = js.filter (· ≠ .nop)) (s : State) :
    execAll is s = execAll js s := by
  rw [← execAll_filter_ne_nop is, h, execAll_filter_ne_nop]

/-- Settles O11: NOP answers the state itself, and with and without it a sequence has the same other instructions. -/
theorem nopChangesNothing : Obligations.NopChangesNothing :=
  ⟨decode_encode .nop, fun _ => rfl, fun pre post s => execAll_congr_filter (by simp) s⟩

/-- FEEDs are no NOPs. -/
theorem filter_ne_nop_map_feed (msg : List Byte) :
    (msg.map Instr.feed).filter (· ≠ .nop) = msg.map Instr.feed :=
  List.filter_eq_self.2 fun i hi => by
    obtain ⟨v, -, rfl⟩ := List.mem_map.1 hi
    rfl

/-- Settles O40: without its NOPs such a sequence is the FEEDs of the message, and sequences run one after the other. -/
theorem chunkingDoesNotMatter : Obligations.ChunkingDoesNotMatter := by
  refine ⟨fun msg cmds s h => execAll_congr_filter ?_ s, fun a b s t ht => ?_⟩
  · rw [List.filter_append, List.filter_append, List.filter_append, List.filter_append, h, filter_ne_nop_map_feed]
  · rw [List.map_append, execAll_append_of_next ht]

/-! ### INIT -/

/-- INIT answers in every state, whatever the phase (R77, R86). -/
theorem exec_init_eq (s : State) : exec .init s = .next s.initialize := rfl

/-- INIT after INIT changes nothing (R77). -/
theorem initialize_initialize (s : State) : s.initialize.initialize = s.initialize := rfl

/-- Settles O12: field by field from the meaning of INIT, which reads no field of the state. -/
theorem initStartsAMessage : Obligations.InitStartsAMessage := by
  refine ⟨decode_encode .init, fun s => ⟨s.initialize, exec_init_eq s, rfl, Memory.wf_clear, Memory.read_nil, rfl, ?_⟩,
    fun s u t v ht hv => ?_⟩
  · rw [execAll_cons_of_next (exec_init_eq s), execAll_cons_of_next (exec_init_eq _), initialize_initialize]
    rfl
  · cases ht
    cases hv
    exact ⟨rfl, rfl, rfl, rfl⟩

/-! ### FEED and FINAL -/

/-- FILL is 63 exactly when the count is 63 modulo 64 (R21). -/
theorem fill_eq_63_iff (s : State) : s.fill = 63 ↔ s.len.toNat % 64 = 63 := by
  rw [← fill_toNat]
  exact ⟨congrArg BitVec.toNat, fun h => BitVec.eq_of_toNat_eq h⟩

/-- Settles O13: a byte that does not complete the block is stored at `FILL` and counted. -/
theorem feedStoresOneByte : Obligations.FeedStoresOneByte := by
  intro s v hp hne
  refine ⟨?_, fun hwf a => Memory.read_write hwf _ a v⟩
  rw [exec_feed_of_accum hp, absorb_eq, if_neg (mt (fill_eq_63_iff s).1 hne), ← fill_toNat]
  rfl

/-- Settles O14: the byte goes to address 63 and completes the block, and `absorb` says what each field becomes. -/
theorem feedCompletesTheBlock : Obligations.FeedCompletesTheBlock := by
  intro s v hp hlen
  have hfull : s.fill = 63 := (fill_eq_63_iff s).2 hlen
  have hbuf : (s.absorb v).buf = s.buf.write 63 v := by
    rw [State.absorb_buf, hfull]
    rfl
  refine ⟨s.absorb v, exec_feed_of_accum hp v, hbuf, fun hwf a => ?_, ?_, State.absorb_len v s, ?_,
    (State.absorb_phase v s).trans hp, State.absorb_err v s, State.absorb_busy v s, State.absorb_inputs v s⟩
  · rw [hbuf, Memory.read_write hwf]
  · rw [State.absorb_h, if_pos hfull, State.absorb_buf]
  · rw [State.absorb_fill]
    exact (fill_add_one_eq_zero s).2 hfull

/-- FEED and FINAL run behind the phase check (R75). -/
theorem exec_eq_inAccum {i : Instr} (h : i = .final ∨ ∃ v, i = .feed v) (s : State) :
    ∃ body, exec i s = .next (s.inAccum body) := by
  obtain rfl | ⟨v, rfl⟩ := h
  · exact ⟨_, rfl⟩
  · exact ⟨_, rfl⟩

/-- Before INIT the phase check raises SEQ_UNINIT (R138). -/
theorem inAccum_of_uninit {s : State} (h : s.phase = .uninit) (body : State → State) :
    s.inAccum body = s.raise .seqUninit := by
  simp only [State.inAccum, h]

/-- After FINAL the phase check raises SEQ_DONE (R138). -/
theorem inAccum_of_done {s : State} (h : s.phase = .done) (body : State → State) :
    s.inAccum body = s.raise .seqDone := by
  simp only [State.inAccum, h]

/-- Settles O16: the phase check drops the command and raises the code of the phase, which writes `ERRCODE` only. -/
theorem feedAndFinalNeedAccum : Obligations.FeedAndFinalNeedAccum := by
  intro s i h
  obtain ⟨body, hexec⟩ := exec_eq_inAccum h s
  rw [hexec]
  exact ⟨fun hp => congrArg _ (inAccum_of_uninit hp body), fun hp => congrArg _ (inAccum_of_done hp body)⟩

end Sys2Proof.Safety
end

section
/-! SUPPORT. The proofs of the family 41_compression: the rows of R104 family by family (O24 to O27) and from the tables
(O28), the step operation (O29), the nonlinear functions (O30), what a compression reads (O45). -/

namespace Sys2Proof.Safety

open Sys2Proof.Machine

/-! ### The step operation -/

/-- The step operation in a state, with the new value of each register written out (R96). -/
theorem setWork_roundStep (f : Word → Word → Word → Word) (m k : Word) (r : Nat) (s : State) :
    s.setWork (roundStep f m k r s.work) =
      { s with work := ⟨s.work.d, s.work.b + rotl32 (s.work.a + f s.work.b s.work.c s.work.d + m + k) r,
        s.work.b, s.work.c⟩ } := rfl

/-- The round of a step index is its quotient by 16 (R66). -/
theorem roundOf_toNat (t : StepIndex) : (roundOf t).toNat = t.toNat / 16 := by
  have ht := t.isLt
  rw [roundOf, BitVec.extractLsb'_toNat, Nat.shiftRight_eq_div_pow]
  omega

/-- The nonlinear function of a step index, by the range of its round (R101). -/
theorem roundFn_roundOf (t : StepIndex) :
    roundFn (roundOf t) =
      if t.toNat < 16 then fF else if t.toNat < 32 then fG else if t.toNat < 48 then fH else fI := by
  have hround := roundOf_toNat t
  have h0 : roundOf t = 0 ↔ t.toNat < 16 := by bv_omega
  have h1 : roundOf t = 1 ↔ 16 ≤ t.toNat ∧ t.toNat < 32 := by bv_omega
  have h2 : roundOf t = 2 ↔ 32 ≤ t.toNat ∧ t.toNat < 48 := by bv_omega
  unfold roundFn
  grind

/-- Settles O28: the rows and the tables select the same step operation, row by row. -/
theorem rowsFollowTheTables : Obligations.RowsFollowTheTables := exec_decodeStep_eq

/-- Settles O29: the row answers the step operation of its index, whose function is that of the index's range. -/
theorem registersMoveAtOnce : Obligations.RegistersMoveAtOnce := by
  intro t s
  refine ⟨_, exec_decodeStep_eq t s, rfl, rfl, rfl, rfl, ?_⟩
  rw [← roundFn_roundOf]
  rfl

/-! ### The rows of R104 -/

/-- Settles O24: the row of the statement is the FF step operation, and each instruction has its literals. -/
theorem ffRowsCompute : Obligations.FFRowsCompute := by
  intro s row
  have hrow (g : BitVec 4) (r : Nat) (k : Word) : row g r k = .next (stepFF g r k s) :=
    congrArg Host.Outcome.next (setWork_roundStep fF (msgWord s.buf g) k r s).symm
  simp only [hrow]
  and_intros <;> rfl

/-- Settles O25: the row of the statement is the GG step operation, and each instruction has its literals. -/
theorem ggRowsCompute : Obligations.GGRowsCompute := by
  intro s row
  have hrow (g : BitVec 4) (r : Nat) (k : Word) : row g r k = .next (stepGG g r k s) :=
    congrArg Host.Outcome.next (setWork_roundStep fG (msgWord s.buf g) k r s).symm
  simp only [hrow]
  and_intros <;> rfl

/-- Settles O26: the row of the statement is the HH step operation, and each instruction has its literals. -/
theorem hhRowsCompute : Obligations.HHRowsCompute := by
  intro s row
  have hrow (g : BitVec 4) (r : Nat) (k : Word) : row g r k = .next (stepHH g r k s) :=
    congrArg Host.Outcome.next (setWork_roundStep fH (msgWord s.buf g) k r s).symm
  simp only [hrow]
  and_intros <;> rfl

/-- Settles O27: the row of the statement is the II step operation, and each instruction has its literals. -/
theorem iiRowsCompute : Obligations.IIRowsCompute := by
  intro s row
  have hrow (g : BitVec 4) (r : Nat) (k : Word) : row g r k = .next (stepII g r k s) :=
    congrArg Host.Outcome.next (setWork_roundStep fI (msgWord s.buf g) k r s).symm
  simp only [hrow]
  and_intros <;> rfl

/-! ### The nonlinear functions -/

/-- `fF` takes the bit of `y` or of `z`, as the bit of `x` says (R97). -/
theorem getLsbD_fF (x y z : Word) {i : Nat} (hi : i < 32) :
    (fF x y z).getLsbD i = if x.getLsbD i then y.getLsbD i else z.getLsbD i := by
  rw [fF, BitVec.getLsbD_or, BitVec.getLsbD_and, BitVec.getLsbD_and, BitVec.getLsbD_not]
  cases x.getLsbD i <;> simp [hi]

/-- `fG` is `fF` with the selector last (R98). -/
theorem fG_eq_fF (x y z : Word) : fG x y z = fF z x y := by
  rw [fG, fF, BitVec.and_comm x z, BitVec.and_comm y]

/-- `fH` is the parity of the three bits (R99). -/
theorem getLsbD_fH (x y z : Word) (i : Nat) :
    (fH x y z).getLsbD i = ((x.getLsbD i ^^ y.getLsbD i) ^^ z.getLsbD i) := by
  rw [fH, BitVec.getLsbD_xor, BitVec.getLsbD_xor]

/-- `fI` bit by bit (R100). -/
theorem getLsbD_fI (x y z : Word) {i : Nat} (hi : i < 32) :
    (fI x y z).getLsbD i = (y.getLsbD i ^^ (x.getLsbD i || !z.getLsbD i)) := by
  simp [fI, hi]

/-- The form of `fF` with one conjunction (R97). -/
theorem fF_eq_xor_and_xor (x y z : Word) : fF x y z = z ^^^ (x &&& (y ^^^ z)) := by
  apply BitVec.eq_of_getLsbD_eq
  intro i hi
  rw [getLsbD_fF x y z hi, BitVec.getLsbD_xor, BitVec.getLsbD_and, BitVec.getLsbD_xor]
  cases x.getLsbD i <;> simp [Bool.xor_left_comm]

/-- Settles O30: the bits and the forms of `fG` are those of `fF` with the selector last, and the function of an index
is that of its range. -/
theorem nonlinearFunctionsBitwise : Obligations.NonlinearFunctionsBitwise := by
  refine ⟨fun x y z i hi => ⟨getLsbD_fF x y z hi, ?_, getLsbD_fH x y z i, getLsbD_fI x y z hi⟩,
    fun x y z => ⟨fF_eq_xor_and_xor x y z, ?_, fG_eq_fF x y z⟩, rfl, rfl, rfl, rfl, fun t => ?_⟩
  · rw [fG_eq_fF, getLsbD_fF z x y hi]
  · rw [fG_eq_fF, fF_eq_xor_and_xor]
  · rw [roundFn_roundOf]
    refine ⟨fun h => if_pos h, fun h h' => ?_, fun h h' => ?_, fun h => ?_⟩
    · rw [if_neg h.not_gt, if_pos h']
    · rw [if_neg (by omega), if_neg h.not_gt, if_pos h']
    · rw [if_neg (by omega), if_neg (by omega), if_neg h.not_gt]

/-! ### What a compression reads -/

/-- Settles O45: with the last byte stored both buffers hold the same block, and the compression reads nothing but it
and `H`. -/
theorem compressionDependsOnHAndBufOnly : Obligations.CompressionDependsOnHAndBufOnly := by
  intro s t v hps hpt hws hwt hls hlt hacc hbytes
  obtain ⟨s', hs', -, hreads, hhs, -⟩ := feedCompletesTheBlock s v hps hls
  obtain ⟨t', ht', -, hreadt, hht, -⟩ := feedCompletesTheBlock t v hpt hlt
  have hblock : msgWord s'.buf = msgWord t'.buf := msgWord_congr fun a ha => by
    rw [hreads hws, hreadt hwt]
    by_cases h63 : a = 63
    · rw [if_pos h63, if_pos h63]
    · rw [if_neg h63, if_neg h63, hbytes a (by omega)]
  exact ⟨s', t', hs', ht', by rw [hhs, hht, hacc, hblock], hhs⟩

end Sys2Proof.Safety
end

section
/-! SUPPORT. The proofs of the family 42_padding_finalization: the digest as a function of the message (O39), the blocks
that FINAL compresses (O17, O18, O20), the padding block by block (O19), the digest port (O42, O43), the digests that
the source states (O46). -/

namespace Sys2Proof.Safety

open Sys2Proof.Machine

/-! ### The digest as a function of the message -/

/-- Bytes absorbed are bytes accumulated (R20, R81). -/
theorem Accumulated.absorbAll (vs : List Byte) {msg : List Byte} {s : State} (hs : Accumulated msg s) :
    Accumulated (msg ++ vs) (s.absorbAll vs) := by
  induction vs generalizing msg s with
  | nil => rwa [List.append_nil]
  | cons v vs ih =>
    rw [List.append_cons]
    exact ih (hs.absorb v)

/-- The bit length is eight times the byte count, modulo 2^64 (R121). -/
theorem bitLength_ofNat (n : Nat) : bitLength (BitVec.ofNat 64 n) = BitVec.ofNat 64 (8 * n) := by
  apply BitVec.eq_of_toNat_eq
  rw [bitLength, BitVec.toNat_shiftLeft, Nat.shiftLeft_eq, BitVec.toNat_ofNat, BitVec.toNat_ofNat]
  omega

/-- The padding turns the message into the padded message (R120, R134). -/
theorem Accumulated.pad {msg : List Byte} {s : State} (hs : Accumulated msg s) : Accumulated (padded msg) s.pad := by
  have h := hs.absorbAll
    ([0x80#8] ++ List.replicate ((119 - s.fill.toNat) % 64) 0x00#8 ++ le64Bytes (bitLength s.len))
  rwa [← pad_eq, hs.fill_toNat, hs.count, bitLength_ofNat, ← List.append_assoc, ← List.append_assoc] at h

/-- The FEEDs of a message absorb its bytes (R80). -/
theorem execAll_map_feed (msg : List Byte) {s : State} (hp : s.phase = .accum) :
    execAll (msg.map .feed) s = .next (s.absorbAll msg) := by
  induction msg generalizing s with
  | nil => rfl
  | cons v msg ih =>
    rw [List.map_cons, execAll_cons_of_next (exec_feed_of_accum hp v), ih ((State.absorb_phase v s).trans hp)]
    rfl

theorem exec_final_of_accum {s : State} (hp : s.phase = .accum) :
    exec .final s = .next (s.pad.setPhase .done) := by
  simp only [exec, execFinal, State.inAccum, hp]

/-- INIT, the message and FINAL leave the digest of the message in the accumulators (R134). -/
theorem execAll_message (msg : List Byte) (s : State) :
    ∃ t, execAll ([.init] ++ msg.map .feed ++ [.final]) s = .next t ∧ t.phase = .done ∧ t.err = s.err ∧
      t.h = digestOf msg := by
  have hacc : Accumulated msg (s.initialize.absorbAll msg) :=
    (accumulated_of_exec_init (exec_init_eq s)).absorbAll msg
  refine ⟨(s.initialize.absorbAll msg).pad.setPhase .done, ?_, rfl, ?_, hacc.pad.chaining⟩
  · rw [List.append_assoc, List.singleton_append, execAll_cons_of_next (exec_init_eq s),
      execAll_append_of_next (execAll_map_feed msg (State.initialize_phase s)),
      execAll_cons_of_next (exec_final_of_accum hacc.phase)]
    rfl
  · rw [State.setPhase_err, (pad_dataOnly _).err, (absorbAll_dataOnly _ _).err, State.initialize_err]

/-- In DONE the digest port shows the accumulators (R28, R128). -/
theorem digest_of_done {s : State} (hp : s.phase = .done) : s.digest = some s.h.digestBits := by
  rw [State.digest, State.digestValid, if_pos (decide_eq_true hp)]

/-- Settles O39: the padding keeps the invariants of an accumulating engine, with the padded message accumulated. -/
theorem digestIsAFunctionOfTheMessage : Obligations.DigestIsAFunctionOfTheMessage := by
  intro msg s
  obtain ⟨t, ht, hp, herr, hh⟩ := execAll_message msg s
  exact ⟨t, ht, hp, herr, by rw [digest_of_done hp, hh]⟩

/-! ### A block completed in the buffer -/

/-- Consecutive writes, split in two. -/
theorem writeBytes_append (us vs : List Byte) (m : Memory) (a : Nat) :
    m.writeBytes a (us ++ vs) = (m.writeBytes a us).writeBytes (a + us.length) vs := by
  induction us generalizing m a with
  | nil => rfl
  | cons u us ih =>
    rw [List.cons_append, Memory.writeBytes, Memory.writeBytes, ih, List.length_cons, Nat.add_right_comm, Nat.add_assoc]

/-- A buffer filled up from an address holds the block of its bytes below that address and the bytes written. -/
theorem msgWord_writeBytes {m : Memory} (hm : m.wf = true) {n : Nat} {vs : List Byte} (hn : n + vs.length = 64) :
    msgWord (m.writeBytes n vs) = blockWord ((List.range n).map m.read ++ vs) := by
  refine msgWord_eq_blockWord fun k hk => ?_
  have hlen : ((List.range n).map m.read).length = n := by rw [List.length_map, List.length_range]
  rw [Memory.read_writeBytes k hm hn.le]
  by_cases h : n ≤ k
  · rw [if_pos ⟨h, by omega⟩, List.getD_append_right _ _ _ _ (by omega), hlen]
  · rw [if_neg (by omega), List.getD_append _ _ _ _ (by omega)]
    simp [List.getD_eq_getElem?_getD, not_le.1 h]

/-- Bytes that complete the block compress it, the valid bytes first (R79). -/
theorem absorbAll_h_block {s : State} (hs : s.buf.wf = true) {vs : List Byte} (hlen : s.fill.toNat + vs.length = 64) :
    (s.absorbAll vs).h = compressBlock s.h (blockWord (validBytes s ++ vs)) := by
  have hne : vs ≠ [] := by
    rintro rfl
    exact s.fill.isLt.ne hlen
  rw [absorbAll_h_full vs s hne hlen, absorbAll_buf vs s hlen.le, msgWord_writeBytes hs hlen]
  rfl

/-- Bytes that complete the block and one more: the second block starts with no valid byte (R79). -/
theorem absorbAll_h_two_blocks {s : State} (hs : s.buf.wf = true) {us vs : List Byte}
    (hus : s.fill.toNat + us.length = 64) (hvs : vs.length = 64) :
    (s.absorbAll (us ++ vs)).h =
      compressBlock (compressBlock s.h (blockWord (validBytes s ++ us))) (blockWord vs) := by
  have hfill : (s.absorbAll us).fill.toNat = 0 := by rw [absorbAll_fill, hus]
  have hvalid : validBytes (s.absorbAll us) = [] := by rw [validBytes, hfill]; rfl
  rw [State.absorbAll_append, absorbAll_h_block ((absorbAll_dataOnly us s).canonical hs) (by omega),
    absorbAll_h_block hs hus, hvalid, List.nil_append]

/-! ### The padding as blocks -/

theorem length_shortTail {n : Nat} (hn : n ≤ 55) (len : Count) :
    n + ([0x80#8] ++ List.replicate (55 - n) 0x00#8 ++ le64Bytes len).length = 64 := by
  simp only [le64Bytes, List.length_append, List.length_replicate, List.length_cons, List.length_nil]
  omega

theorem length_longTail {n : Nat} (hn : n < 64) :
    n + ([0x80#8] ++ List.replicate (63 - n) 0x00#8).length = 64 := by
  simp only [List.length_append, List.length_replicate, List.length_cons, List.length_nil]
  omega

theorem length_lengthBlock (s : State) : (lengthBlock s).length = 64 := rfl

/-- Marker, zeros and length field after at most 55 valid bytes complete one block (R125). -/
theorem pad_h_short {s : State} (hs : s.buf.wf = true) (hf : s.fill.toNat ≤ 55) :
    s.pad.h = compressBlock s.h (blockWord (shortBlock s)) := by
  have hz : (119 - s.fill.toNat) % 64 = 55 - s.fill.toNat := by omega
  rw [pad_eq, hz, absorbAll_h_block hs (length_shortTail hf _), shortBlock]
  simp only [List.append_assoc]

/-- The padding after at least 56 valid bytes, cut where the first block ends (R125). -/
theorem pad_eq_long {s : State} (hf : 56 ≤ s.fill.toNat) :
    s.pad = s.absorbAll ([0x80#8] ++ List.replicate (63 - s.fill.toNat) 0x00#8 ++ lengthBlock s) := by
  have hlt := s.fill.isLt
  have hz : (119 - s.fill.toNat) % 64 = (63 - s.fill.toNat) + 56 := by omega
  rw [pad_eq, hz, ← List.replicate_append_replicate, lengthBlock]
  simp only [List.append_assoc]

/-- The padding after at least 56 valid bytes completes two blocks, the first one without the length (R125). -/
theorem pad_h_long {s : State} (hs : s.buf.wf = true) (hf : 56 ≤ s.fill.toNat) :
    s.pad.h = compressBlock (compressBlock s.h (blockWord (longBlock s))) (blockWord (lengthBlock s)) := by
  rw [pad_eq_long hf, absorbAll_h_two_blocks hs (length_longTail s.fill.isLt) (length_lengthBlock s), longBlock,
    List.append_assoc]

/-- FINAL in ACCUM: the accumulators of the padding and the frame of the padding, with PHASE in DONE (R83, R129). -/
theorem exists_exec_final {s : State} (hp : s.phase = .accum) (hs : s.buf.wf = true) :
    ∃ t, exec .final s = .next t ∧ t.h = s.pad.h ∧ t.buf.wf = true ∧ t.phase = .done ∧ t.err = s.err ∧
      t.busy = s.busy ∧ t.inputs = s.inputs :=
  have h := pad_dataOnly s
  ⟨_, exec_final_of_accum hp, rfl, h.canonical hs, rfl, h.err, h.busy, h.inputs⟩

/-- Settles O17: the padding completes one block. -/
theorem finalOfAShortTail : Obligations.FinalOfAShortTail := by
  intro s hp hs hf
  rw [← pad_h_short hs hf]
  exact exists_exec_final hp hs

/-- Settles O18: the padding completes two blocks. -/
theorem finalOfALongTail : Obligations.FinalOfALongTail := by
  intro s hp hs hf
  rw [← pad_h_long hs hf]
  exact exists_exec_final hp hs

/-! ### The buffer-level padding -/

/-- The marker and the zeros after it are one run of bytes in the buffer (R126). -/
theorem write_marker_zeros (m : Memory) (a n : Nat) :
    (m.write a 0x80#8).zeros (a + 1) n = m.writeBytes a ([0x80#8] ++ List.replicate n 0x00#8) := rfl

/-- The second block written from address 0: its zeros, then the length field (R126). -/
theorem zeros_writeBytes_length (m : Memory) (s : State) :
    (m.zeros 0 56).writeBytes 56 (le64Bytes (bitLength s.len)) = m.writeBytes 0 (lengthBlock s) := by
  rw [lengthBlock, writeBytes_append]
  rfl

/-- With at most 55 valid bytes the block writes compress the one block of R125. -/
theorem padBuffer_h_short {s : State} (hs : s.buf.wf = true) (hf : s.fill.toNat ≤ 55) :
    s.padBuffer.h = compressBlock s.h (blockWord (shortBlock s)) := by
  have hr : ¬ s.fill.toNat + 1 > 56 := by omega
  have hz : 56 - (s.fill.toNat + 1) = 55 - s.fill.toNat := by omega
  have hend : s.fill.toNat + ([0x80#8] ++ List.replicate (55 - s.fill.toNat) 0x00#8).length = 56 := by
    simp only [List.length_append, List.length_replicate, List.length_cons, List.length_nil]
    omega
  have hbuf := writeBytes_append ([0x80#8] ++ List.replicate (55 - s.fill.toNat) 0x00#8)
    (le64Bytes (bitLength s.len)) s.buf s.fill.toNat
  rw [hend] at hbuf
  simp only [State.padBuffer, if_neg hr, State.compress_h, State.storeByte_h, State.storeByte_buf, hz,
    write_marker_zeros, ← hbuf, msgWord_writeBytes hs (length_shortTail hf _)]
  rw [shortBlock, validBytes]
  simp only [List.append_assoc]

/-- With at least 56 valid bytes the block writes compress the two blocks of R125. -/
theorem padBuffer_h_long {s : State} (hs : s.buf.wf = true) (hf : 56 ≤ s.fill.toNat) :
    s.padBuffer.h = compressBlock (compressBlock s.h (blockWord (longBlock s))) (blockWord (lengthBlock s)) := by
  have hr : s.fill.toNat + 1 > 56 := by omega
  have hz : 64 - (s.fill.toNat + 1) = 63 - s.fill.toNat := by omega
  have hlen := length_longTail s.fill.isLt
  have hwf := Memory.wf_writeBytes hs hlen.le
  have hsecond : 0 + (lengthBlock s).length = 64 := by rw [length_lengthBlock]
  simp only [State.padBuffer, if_pos hr, State.compress_h, State.compress_buf, State.storeByte_h,
    State.storeByte_buf, hz, write_marker_zeros, Nat.sub_zero, zeros_writeBytes_length,
    msgWord_writeBytes hs hlen, msgWord_writeBytes hwf hsecond]
  rw [longBlock, validBytes, List.append_assoc]
  rfl

/-- Settles O19: byte by byte and block by block the padding compresses the same blocks. -/
theorem blockwisePaddingIsTheSame : Obligations.BlockwisePaddingIsTheSame := by
  intro s hs
  obtain hf | hf := Nat.lt_or_ge s.fill.toNat 56
  · rw [pad_h_short hs (Nat.le_of_lt_succ hf), padBuffer_h_short hs (Nat.le_of_lt_succ hf)]
  · rw [pad_h_long hs hf, padBuffer_h_long hs hf]

/-! ### The length field -/

/-- The bit length as a number (R121). -/
theorem bitLength_toNat (len : Count) : (bitLength len).toNat = len.toNat * 8 % 2 ^ 64 := by
  rw [bitLength, BitVec.toNat_shiftLeft, Nat.shiftLeft_eq]

/-- Byte `k` of a little-endian 64-bit value (R9). -/
theorem le64Bytes_getD_toNat (w : Count) {k : Nat} (hk : k < 8) :
    ((le64Bytes w).getD k 0).toNat = w.toNat / 256 ^ k % 256 := by
  have hbyte : (le64Bytes w).getD k 0 = w.extractLsb' (8 * k) 8 := by
    interval_cases k <;> rfl
  rw [hbyte, BitVec.extractLsb'_toNat, Nat.shiftRight_eq_div_pow, Nat.pow_mul]

section LengthField
variable {pre : List Byte} (hpre : pre.length = 56) (w : Count)
include hpre

/-- Byte `56 + k` of a block that ends with a 64-bit value is byte `k` of the value (R124). -/
theorem getD_append_le64Bytes_toNat {k : Nat} (hk : k < 8) :
    ((pre ++ le64Bytes w).getD (56 + k) 0).toNat = w.toNat / 256 ^ k % 256 := by
  rw [List.getD_append_right _ _ _ _ (by omega), hpre, Nat.add_sub_cancel_left, le64Bytes_getD_toNat w hk]

/-- A message word of such a block, from byte `56 + k` up, is four bytes of the value from byte `k` up (R45). -/
theorem blockWord_append_le64Bytes_toNat {j : BitVec 4} {k : Nat} (hj : 4 * j.toNat = 56 + k) (hk : k ≤ 4) :
    (blockWord (pre ++ le64Bytes w) j).toNat = w.toNat / 256 ^ k % 2 ^ 32 := by
  rw [blockWord, le32_toNat, hj]
  simp (disch := omega) only [Nat.add_assoc, getD_append_le64Bytes_toNat hpre w, Nat.pow_add,
    ← Nat.div_div_eq_div_mul]
  omega

end LengthField

/-- The last block of FINAL is 56 bytes and the bit length (R124, R125). -/
theorem shortBlock_eq_append {s : State} (hf : s.fill.toNat ≤ 55) :
    ∃ pre, pre.length = 56 ∧ shortBlock s = pre ++ le64Bytes (bitLength s.len) := by
  refine ⟨_, ?_, rfl⟩
  simp only [validBytes, List.length_append, List.length_map, List.length_range, List.length_replicate,
    List.length_singleton]
  omega

/-- Settles O20: the last block is that of O17 or the second of O18, and both end with the bit length. -/
theorem lengthFieldEndsTheBlock : Obligations.LengthFieldEndsTheBlock := by
  intro s hp hs last
  obtain ⟨t, ht, hh, -⟩ := exists_exec_final hp hs
  obtain ⟨⟨pre, hpre, he⟩, hacc⟩ : (∃ pre, pre.length = 56 ∧ last = pre ++ le64Bytes (bitLength s.len)) ∧
      s.pad.h = compressBlock (if s.fill.toNat ≤ 55 then s.h else compressBlock s.h (blockWord (longBlock s)))
        (blockWord last) := by
    by_cases hf : s.fill.toNat ≤ 55
    · rw [show last = shortBlock s from if_pos hf, if_pos hf]
      exact ⟨shortBlock_eq_append hf, pad_h_short hs hf⟩
    · rw [show last = lengthBlock s from if_neg hf, if_neg hf]
      exact ⟨⟨_, List.length_replicate, rfl⟩, pad_h_long hs (not_le.1 hf)⟩
  have hlt := Nat.mod_lt (s.len.toNat * 8) (y := 2 ^ 64) (by decide)
  rw [← bitLength_toNat] at hlt ⊢
  refine ⟨⟨t, ht, hh.trans hacc⟩, ?_⟩
  rw [he]
  refine ⟨by rw [List.length_append, hpre]; rfl, fun k hk => getD_append_le64Bytes_toNat hpre _ hk, ?_, ?_⟩
  · rw [blockWord_append_le64Bytes_toNat hpre _ (k := 0) rfl (by decide)]
    omega
  · rw [blockWord_append_le64Bytes_toNat hpre _ (k := 4) rfl (by decide)]
    omega

/-! ### The digest port -/

/-- The digest port is a function of PHASE and the accumulators (R28). -/
theorem digest_congr {s t : State} (hp : t.phase = s.phase) (hh : t.h = s.h) : t.digest = s.digest := by
  rw [State.digest, State.digest, State.digestValid, State.digestValid, hp, hh]

/-- Settles O42: outside ACCUM an instruction other than INIT writes at most `ERRCODE` or the working registers. -/
theorem digestHeldWhileDone : Obligations.DigestHeldWhileDone := by
  intro i s t hp hinit ht
  obtain ⟨hphase, hh⟩ : t.phase = s.phase ∧ t.h = s.h := by
    have hne : s.phase ≠ .accum := by rw [hp]; decide
    obtain ⟨c, he⟩ | ⟨w, he⟩ := exec_outside_accum hinit hne <;> cases he.symm.trans ht
    · exact ⟨State.raise_phase c s, State.raise_h c s⟩
    · exact ⟨State.setWork_phase w s, State.setWork_h w s⟩
  exact ⟨hphase.trans hp, digest_congr hphase hh⟩

/-- The accumulators by their index, `H[3]` at every index above (R16). -/
def accWord (h : Accs) : Nat → Word
  | 0 => h.h0
  | 1 => h.h1
  | 2 => h.h2
  | _ => h.h3

/-- The digest holds accumulator `i` in bits 32i+31:32i (R128). -/
theorem digestBits_extractLsb' (h : Accs) {i : Nat} (hi : i < 4) :
    h.digestBits.extractLsb' (32 * i) 32 = accWord h i := by
  unfold Accs.digestBits
  interval_cases i
  · exact BitVec.extractLsb'_append_eq_right
  · rw [BitVec.extractLsb'_append_eq_of_le (by decide)]
    exact BitVec.extractLsb'_append_eq_right
  · rw [BitVec.extractLsb'_append_eq_of_le (by decide), BitVec.extractLsb'_append_eq_of_le (by decide)]
    exact BitVec.extractLsb'_append_eq_right
  · rw [BitVec.extractLsb'_append_eq_of_le (by decide), BitVec.extractLsb'_append_eq_of_le (by decide),
      BitVec.extractLsb'_append_eq_of_le (by decide)]
    exact BitVec.extractLsb'_eq_self

/-- A field of a field is a field of the whole. -/
theorem extractLsb'_extractLsb' {w : Nat} (x : BitVec w) (a n : Nat) {b m : Nat} (h : b + m ≤ n) :
    (x.extractLsb' a n).extractLsb' b m = x.extractLsb' (a + b) m := by
  apply BitVec.eq_of_getLsbD_eq
  intro i hi
  simp only [BitVec.getLsbD_extractLsb', hi, show b + i < n by omega, decide_true, Bool.true_and, Nat.add_assoc]

/-- Byte `4i + l` of the digest is byte `l` of accumulator `i`, the least significant first (R128). -/
theorem digestBytes_getD (h : Accs) {i l : Nat} (hi : i < 4) (hl : l < 4) :
    h.digestBytes.getD (4 * i + l) 0 = (accWord h i).extractLsb' (8 * l) 8 := by
  interval_cases i <;> interval_cases l <;> rfl

/-- The bytes of the digest bits are the bytes of the serialization (R128). -/
theorem digestBits_byte (h : Accs) {k : Nat} (hk : k < 16) :
    h.digestBits.extractLsb' (8 * k) 8 = h.digestBytes.getD k 0 := by
  have hi : k / 4 < 4 := by omega
  have hl : k % 4 < 4 := by omega
  have hbyte := digestBytes_getD h hi hl
  rw [← digestBits_extractLsb' h hi, extractLsb'_extractLsb' _ _ _ (by omega), Nat.div_add_mod] at hbyte
  rw [hbyte]
  congr 1
  omega

/-- Settles O43: the port shows the accumulators in DONE only, word by word and byte by byte. -/
theorem digestIsLittleEndianSerialization : Obligations.DigestIsLittleEndianSerialization := by
  refine fun s => ⟨fun hp => ?_, fun hp => ⟨_, digest_of_done hp, ?_⟩⟩
  · rw [State.digest, State.digestValid, if_neg (by simpa using hp)]
  · exact ⟨digestBits_extractLsb' s.h (i := 0) (by decide), digestBits_extractLsb' s.h (i := 1) (by decide),
      digestBits_extractLsb' s.h (i := 2) (by decide), digestBits_extractLsb' s.h (i := 3) (by decide),
      fun k hk => digestBits_byte s.h hk⟩

/-! ### The digests of the source -/

/-- The accumulators of R133 for the empty message. -/
theorem digestOf_nil : digestOf [] = ⟨0xd98c1dd4#32, 0x04b2008f#32, 0x980980e9#32, 0x7e42f8ec#32⟩ := by
  decide +kernel

/-- The accumulators of R133 for the message `abc`. -/
theorem digestOf_abc :
    digestOf [0x61#8, 0x62#8, 0x63#8] = ⟨0x98500190#32, 0xb04fd23c#32, 0x7d3f96d6#32, 0x727fe128#32⟩ := by
  decide +kernel

/-- Settles O46: the two command sequences leave the digests of their messages, which the compression function gives. -/
theorem sourceDigests : Obligations.SourceDigests := by
  obtain ⟨t, ht, htp, -, hth⟩ := execAll_message [] State.reset
  obtain ⟨u, hu, hup, -, huh⟩ := execAll_message [0x61#8, 0x62#8, 0x63#8] State.reset
  rw [digestOf_nil] at hth
  rw [digestOf_abc] at huh
  exact ⟨⟨t, ht, htp, hth, by rw [hth]; rfl⟩, u, hu, hup, huh, by rw [huh]; rfl⟩

end Sys2Proof.Safety
end

section
/-! SUPPORT. The proofs of the family 60_exceptions: an error drops its command (O22), a recorded code stays until a
reset (O21), the idle engine (O9). -/

namespace Sys2Proof.Safety

open Sys2Proof.Machine

/-! ### The exception -/

/-- The first error wins: a recorded code stays (R140). -/
theorem raise_err_of_ne_clean {s : State} (h : s.err ≠ .clean) (c : ErrCode) : (s.raise c).err = s.err :=
  if_neg h

/-- A raised code that changes `ERRCODE` found NONE there and is recorded (R137). -/
theorem raise_err_of_change {s : State} {c : ErrCode} (h : (s.raise c).err ≠ s.err) :
    s.err = .clean ∧ (s.raise c).err = c :=
  have hclean : s.err = .clean := by_contra fun hne => h (raise_err_of_ne_clean hne c)
  ⟨hclean, if_pos hclean⟩

/-- The phase check raises the code of the phase, or it leaves `ERRCODE` to the body it guards (R75, R138). -/
theorem inAccum_err_cases {body : State → State} {s : State} (hbody : (body s).err = s.err) :
    (s.inAccum body).err = s.err ∨
    (s.phase = .uninit ∧ s.inAccum body = s.raise .seqUninit) ∨
    (s.phase = .done ∧ s.inAccum body = s.raise .seqDone) := by
  obtain huninit | hdone | ⟨-, he⟩ := inAccum_cases body s
  · exact .inr (.inl huninit)
  · exact .inr (.inr hdone)
  · exact .inl (he ▸ hbody)

/-- Which instruction can raise what (R139): FEED and FINAL the code of the phase, any other nothing. -/
theorem exec_err_cases {i : Instr} {s t : State} (ht : exec i s = .next t) :
    t.err = s.err ∨
    (i = .final ∨ ∃ v, i = .feed v) ∧
      ((s.phase = .uninit ∧ t = s.raise .seqUninit) ∨ (s.phase = .done ∧ t = s.raise .seqDone)) := by
  obtain ⟨-, he⟩ | ⟨-, he⟩ | ⟨v, hi, he⟩ | ⟨hi, he⟩ | ⟨w, he⟩ := exec_cases i s <;> cases he.symm.trans ht
  · exact .inl rfl
  · exact .inl (State.initialize_err s)
  · exact (inAccum_err_cases (State.absorb_err v s)).imp_right (.intro (.inr ⟨v, hi⟩))
  · have hfinal := inAccum_err_cases (body := fun s => s.pad.setPhase .done) (pad_dataOnly s).err
    exact hfinal.imp_right (.intro (.inl hi))
  · exact .inl (State.setWork_err w s)

/-- Settles O22: `ERRCODE` changes only by the error that the phase check raises. -/
theorem anErrorDropsTheCommand : Obligations.AnErrorDropsTheCommand := by
  intro i s t ht hne
  obtain heq | ⟨hi, ⟨hp, rfl⟩ | ⟨hp, rfl⟩⟩ := exec_err_cases ht
  · exact absurd heq hne
  · obtain ⟨hclean, hcode⟩ := raise_err_of_change hne
    exact ⟨hclean, rfl, hi, .inl ⟨hp, hcode⟩⟩
  · obtain ⟨hclean, hcode⟩ := raise_err_of_change hne
    exact ⟨hclean, rfl, hi, .inr ⟨hp, hcode⟩⟩

/-! ### The recorded code -/

/-- No instruction clears or replaces a recorded code (R140). -/
theorem err_of_exec {i : Instr} {s t : State} (hs : s.err ≠ .clean) (ht : exec i s = .next t) : t.err = s.err :=
  by_contra fun hne => hs (anErrorDropsTheCommand i s t ht hne).1

/-- The sequencer does not touch `ERRCODE` (R139). -/
theorem advance_err (s : State) : s.advance.err = s.err := by
  unfold State.advance
  split <;> simp

/-- Of the steps from a state with a recorded code only a reset event between commands writes `ERRCODE` (R140). -/
theorem err_of_step {s t : State} (hs : s.err ≠ .clean) (ht : step s = .next t)
    (hrst : s.busy = true ∨ s.inputs.head? ≠ some .rst) : t.err = s.err := by
  obtain ⟨-, w, he⟩ | ⟨-, -, he⟩ | ⟨hb, ⟨rest, hi⟩, -⟩ | ⟨-, w, rest, -, ⟨i, -, he⟩ | ⟨-, he⟩⟩ := step_cases s
  · cases he.symm.trans ht
    exact advance_err _
  · cases he.symm.trans ht
    rfl
  · simp [hb, hi] at hrst
  · exact err_of_exec (s := s.pop) hs (he.symm.trans ht)
  · cases he.symm.trans ht
    exact raise_err_of_ne_clean (s := s.pop) hs .rsvdEnc

/-- Settles O21: by the cases of a step; the reset event is the one that clears the code. -/
theorem errorCodeIsSticky : Obligations.ErrorCodeIsSticky := by
  refine ⟨fun s t ht hs hrst => err_of_step hs ht hrst, fun s t ht hb hi => ?_⟩
  obtain ⟨rest, hcons⟩ := List.head?_eq_some_iff.1 hi
  cases (step_of_rst hb hcons).symm.trans ht
  exact State.hardReset_err s.pop

/-! ### The idle engine -/

/-- Settles O9: between commands and without an event the sequencer answers the state itself. -/
theorem idleEngineHolds : Obligations.IdleEngineHolds := by
  intro s hb hi
  simp [step, runNext, hb, hi]

end Sys2Proof.Safety
end

section
/-! SUPPORT. The proofs of the family 70_reset_and_hazards: the state after reset (O1), its buffer (O34), the reset event
(O2). -/

namespace Sys2Proof.Safety

open Sys2Proof.Machine

/-! ### The ports of a clean engine in UNINIT -/

/-- Before INIT and without an error every status bit is 0 (R22, R24, R27). -/
theorem status_of_uninit_clean {s : State} (hp : s.phase = .uninit) (he : s.err = .clean) : s.status = 0b0000#4 := by
  rw [State.status, hp, he]
  rfl

/-- With `ERRCODE` NONE the port `err` is 0 (R138). -/
theorem errFlag_of_clean {s : State} (he : s.err = .clean) : s.errFlag = false :=
  decide_eq_false (not_not_intro he)

/-- Before INIT the port `digest_valid` is 0 (R25). -/
theorem digestValid_of_uninit {s : State} (hp : s.phase = .uninit) : s.digestValid = false := by
  rw [State.digestValid, hp]
  rfl

/-- Before INIT the digest port has no value (R28). -/
theorem digest_of_uninit {s : State} (hp : s.phase = .uninit) : s.digest = none :=
  (digestIsLittleEndianSerialization s).1 (by simp [hp])

/-! ### The state after reset -/

/-- Settles O1: the ports follow from the PHASE and the ERRCODE that R155 gives. -/
theorem resetLeavesUninit : Obligations.ResetLeavesUninit :=
  have hp : State.reset.phase = .uninit := rfl
  have he : State.reset.err = .clean := rfl
  ⟨hp, he, status_of_uninit_clean hp he, errFlag_of_clean he, digestValid_of_uninit hp, rfl, digest_of_uninit hp⟩

/-- Settles O34: the buffer after reset lists nothing, as the cleared buffer does. -/
theorem resetBufferIsCanonical : Obligations.ResetBufferIsCanonical :=
  Memory.wf_clear

/-! ### The reset event -/

/-- Settles O2: the step takes the event and resets, and the ports follow from the PHASE and the ERRCODE it leaves. -/
theorem resetEventClears : Obligations.ResetEventClears := by
  intro s rest hb hi
  have hp : s.pop.hardReset.phase = .uninit := State.hardReset_phase s.pop
  have he : s.pop.hardReset.err = .clean := State.hardReset_err s.pop
  have hinputs : s.pop.hardReset.inputs = rest := by simp [hi]
  exact ⟨s.pop.hardReset, step_of_rst hb hi, hp, he, status_of_uninit_clean hp he, errFlag_of_clean he,
    digestValid_of_uninit hp, digest_of_uninit hp, State.hardReset_busy s.pop, hinputs⟩

end Sys2Proof.Safety
end
